-- ==== Sys2Proof/Word.lean ====
section
/-! DEFINITION. The words of the unit: the 64-bit register value, the one-bit table entry, the byte of a
host's memory image. -/

namespace Sys2Proof

/-- A register value: every register is XLEN = 64 bits wide (00_scope.md R6, 10_state.md section 2). -/
abbrev Word := BitVec 64

/-- One entry of the parity table, one bit (10_state.md R34), and the parity a scan accumulates. -/
abbrev Bit := BitVec 1

/-- One byte of a host's memory image of a register value (20_memory.md R49). -/
abbrev Byte := BitVec 8

end Sys2Proof
end

