-- ==== Sys2Proof/Syntax.lean ====
section
/-! DEFINITION. The commands of the unit, one constructor per row of the opcode table (30_encoding.md R66). -/

namespace Sys2Proof

/-- A command with its widths. The widths W and N are counts, the unscaled unsigned values of their fields
(30_encoding.md R63, R64); the data operand is not part of a command, it is OP_Q (R65). -/
inductive Instr where
  /-- COUNT_BITS (41_bit_count_parity.md R90). -/
  | countBits
  /-- PARITY (41_bit_count_parity.md R91). -/
  | parity
  /-- PARITY_FAST (41_bit_count_parity.md R92). -/
  | parityFast
  /-- BUILD_TABLE W (42_parity_table.md R95). -/
  | buildTable (w : Nat)
  /-- PARITY_CACHED N, W (43_cached_parity.md R99). -/
  | parityCached (n w : Nat)
  /-- TABLE_READ (42_parity_table.md R96). -/
  | tableRead
  deriving DecidableEq, Repr

end Sys2Proof
end

