-- ==== Sys2Proof/WellFormed.lean ====
section
/-! DEFINITION. When a command can be written as a command word: its widths fit their fields
(30_encoding.md R63, R64, R72). A width that fits but is out of its legal range is well formed; it fails at
completion (R70). -/

namespace Sys2Proof

/-- The W field has 5 bits: 0 .. 31 (30_encoding.md R63). -/
def fitsW (w : Nat) : Bool := decide (w ≤ 31)

/-- The N field has 7 bits: 0 .. 127 (30_encoding.md R64). -/
def fitsN (n : Nat) : Bool := decide (n ≤ 127)

/-- What an assembler accepts: it refuses W > 31 and N > 127 and nothing else (30_encoding.md R72). -/
def Instr.wellFormed : Instr → Bool
  | .countBits => true
  | .parity => true
  | .parityFast => true
  | .buildTable w => fitsW w
  | .parityCached n w => fitsN n && fitsW w
  | .tableRead => true

end Sys2Proof
end

