-- ==== Sys2Proof/Decode.lean ====
section
/-! DEFINITION. The decoder of command words, total, rejecting by name (30_encoding.md R67, R69); the encoder
(R68); the opcode table's match and mask rows (R67); a host's little-endian byte image (20_memory.md R49). -/

namespace Sys2Proof

/-- Why a command word is ILLEGAL: the three causes of 60_exceptions.md R107, and a byte string that is not one
64-bit word. STATUS.ERR does not tell the causes apart; the names are the model's (log entry 16). -/
inductive Illegal where
  /-- An opcode of 0x0 or 0x7 to 0xF. -/
  | reservedOpcode
  /-- A 1 in RSV0, RSV1 or RSV2. -/
  | reservedBits
  /-- A non-zero W or N field in a command that does not use it. -/
  | unusedField
  /-- Not the 8 bytes of one command word (30_encoding.md R60). -/
  | notOneWord
  deriving DecidableEq, Repr

/-- What Decode answers: ILLEGAL or a command with its W and N (30_encoding.md R67). -/
inductive Decoded where
  | illegal (why : Illegal)
  | command (i : Instr)
  deriving DecidableEq, Repr

/-- c[3:0] (30_encoding.md R61, R62). -/
def fieldOp (c : Word) : Nat := (c.extractLsb' 0 4).toNat

/-- c[7:4], reserved (30_encoding.md R61). -/
def fieldRsv0 (c : Word) : Nat := (c.extractLsb' 4 4).toNat

/-- c[12:8], the sub-word width (30_encoding.md R61, R63). -/
def fieldW (c : Word) : Nat := (c.extractLsb' 8 5).toNat

/-- c[15:13], reserved (30_encoding.md R61). -/
def fieldRsv1 (c : Word) : Nat := (c.extractLsb' 13 3).toNat

/-- c[22:16], the word width (30_encoding.md R61, R64). -/
def fieldN (c : Word) : Nat := (c.extractLsb' 16 7).toNat

/-- c[63:23], reserved (30_encoding.md R61). -/
def fieldRsv2 (c : Word) : Nat := (c.extractLsb' 23 41).toNat

/-- The command of an opcode of the opcode map, with its widths (30_encoding.md R66). -/
def commandOf (op w n : Nat) : Decoded :=
  match op with
  | 1 => .command .countBits
  | 2 => .command .parity
  | 3 => .command .parityFast
  | 4 => .command (.buildTable w)
  | 5 => .command (.parityCached n w)
  | 6 => .command .tableRead
  | _ => .illegal .reservedOpcode

/-- Decode, in the written order of 30_encoding.md R67. -/
def decode (c : Word) : Decoded :=
  if fieldOp c = 0 ∨ 7 ≤ fieldOp c then .illegal .reservedOpcode
  else if fieldRsv0 c ≠ 0 ∨ fieldRsv1 c ≠ 0 ∨ fieldRsv2 c ≠ 0 then .illegal .reservedBits
  else if (fieldOp c = 1 ∨ fieldOp c = 2 ∨ fieldOp c = 3 ∨ fieldOp c = 6) ∧ (fieldW c ≠ 0 ∨ fieldN c ≠ 0) then
    .illegal .unusedField
  else if fieldOp c = 4 ∧ fieldN c ≠ 0 then .illegal .unusedField
  else commandOf (fieldOp c) (fieldW c) (fieldN c)

/-- The command a decoding gives, if it gives one. -/
def Decoded.instr? : Decoded → Option Instr
  | .illegal _ => none
  | .command i => some i

/-- A host's memory image of a register value: byte k holds bits 8k+7 .. 8k (20_memory.md R49). -/
def bytesOfWord (v : Word) : List Byte :=
  (List.range 8).map fun k => v.extractLsb' (8 * k) 8

/-- The register value of a memory image, byte 0 least significant (20_memory.md R49). -/
def wordOfBytes : List Byte → Word
  | [] => 0
  | b :: bs => (wordOfBytes bs <<< 8) ||| b.setWidth 64

/-- Decoding of a byte string: one command word is exactly 8 bytes (30_encoding.md R60, R71). -/
def decodeBytes (bs : List Byte) : Decoded :=
  if bs.length = 8 then decode (wordOfBytes bs) else .illegal .notOneWord

/-- The instruction the decoder reads from the bits `w` of an opcode-table row of `nbits` bits, laid out as a
host's memory holds the command word (20_memory.md R49); bits above `nbits` are 0. -/
def decodeTableWord (nbits w : Nat) : Option Instr :=
  (decodeBytes (bytesOfWord (BitVec.ofNat 64 (w % 2 ^ nbits)))).instr?

/-- enc(op, w, n) of 30_encoding.md R68. -/
def enc (op w n : Nat) : Word := BitVec.ofNat 64 ((n <<< 16) ||| (w <<< 8) ||| op)

/-- The command word of a command (30_encoding.md R68, R72). -/
def encode : Instr → Word
  | .countBits => enc 1 0 0
  | .parity => enc 2 0 0
  | .parityFast => enc 3 0 0
  | .buildTable w => enc 4 w 0
  | .parityCached n w => enc 5 w n
  | .tableRead => enc 6 0 0

/-- One row of the opcode table: a word is the row's command exactly when its bits under `mask` are `pat`
(30_encoding.md R67). -/
structure OpcodeRow where
  mnemonic : String
  pat : Word
  mask : Word
  deriving DecidableEq, Repr

/-- The rows of spec/opcode_table.json, in its order. -/
def opcodeRows : List OpcodeRow :=
  [ ⟨"COUNT_BITS", 0x0000000000000001#64, 0xFFFFFFFFFFFFFFFF#64⟩,
    ⟨"PARITY", 0x0000000000000002#64, 0xFFFFFFFFFFFFFFFF#64⟩,
    ⟨"PARITY_FAST", 0x0000000000000003#64, 0xFFFFFFFFFFFFFFFF#64⟩,
    ⟨"BUILD_TABLE", 0x0000000000000004#64, 0xFFFFFFFFFFFFE0FF#64⟩,
    ⟨"PARITY_CACHED", 0x0000000000000005#64, 0xFFFFFFFFFF80E0FF#64⟩,
    ⟨"TABLE_READ", 0x0000000000000006#64, 0xFFFFFFFFFFFFFFFF#64⟩ ]

/-- `(c & mask) = match` (30_encoding.md R67). -/
def OpcodeRow.holds (r : OpcodeRow) (c : Word) : Bool := decide (c &&& r.mask = r.pat)

/-- A command's mnemonic (30_encoding.md R66, R72). -/
def Instr.mnemonic : Instr → String
  | .countBits => "COUNT_BITS"
  | .parity => "PARITY"
  | .parityFast => "PARITY_FAST"
  | .buildTable _ => "BUILD_TABLE"
  | .parityCached _ _ => "PARITY_CACHED"
  | .tableRead => "TABLE_READ"

end Sys2Proof
end

