-- ==== Sys2Proof/Config.lean ====
section
/-! DEFINITION. What is fixed for one machine and is not state (10_state.md R21): XLEN, W_MAX, UNIT_BASE and the
PARAM constant; and the free values, which the spec leaves open ("any value" in 93_implementation_defined.md).
A free value is an opaque constant with no body: nothing can be proved of which value it is. -/

namespace Sys2Proof.Config

/-- XLEN, the width of the operand, the result and every register, and the greatest N (00_scope.md R6). -/
def xlen : Nat := 64

/-- W_MAX, the greatest sub-word width the table can hold: 16 for this hardware (00_scope.md R7; log entry 6). -/
def wMax : Nat := 16

/-- The identity string of 00_scope.md R2. No register shows it. -/
def identity : String := "popcount_unit-x64-w16"

/-- The size of the register window in bytes (20_memory.md R40). -/
def windowBytes : Nat := 0x40

/-- The number of the 0x40-byte block that holds the register window. UNIT_BASE is OPEN, a parameter of the
model (00_scope.md R9), so it has no body (log entry 5, safe). -/
opaque unitBlock : Nat

/-- UNIT_BASE, the bus address of the window, a multiple of 0x40 (00_scope.md R9; log entry 5). -/
def unitBase : Nat := windowBytes * unitBlock

/-- The constant of the PARAM register: XLEN in bits 7:0, W_MAX in bits 15:8, zeros above (10_state.md R23). -/
def param : Word := BitVec.ofNat 64 (wMax <<< 8 ||| xlen)

/-- FREE VALUE: what entry `i` of TBL holds where the spec leaves the entry unspecified, for the draw numbered
`draw` (10_state.md R34, R35; 42_parity_table.md R95; 70_reset_and_hazards.md R127; log entry 3, safe). -/
opaque freeTblEntry (draw i : Nat) : Bit

/-- FREE VALUE: what CMD_Q holds after the reset step of draw `draw` (70_reset_and_hazards.md R127; log entry 2,
safe). -/
opaque freeCmdQ (draw : Nat) : Word

/-- FREE VALUE: what OP_Q holds after the reset step of draw `draw` (70_reset_and_hazards.md R127; log entry 2,
safe). -/
opaque freeOpQ (draw : Nat) : Word

end Sys2Proof.Config
end

