-- ==== Sys2Proof/Machine/State.lean ====
section
/-! DEFINITION. The state of the machine as plain data: the unit's state tuple (10_state.md R21), the host agent
with its bus masters and the interleaving of the agents (40_command_cycle.md R75), the reasons a step can stop, and
the state after reset (70_reset_and_hazards.md R127). -/

namespace Sys2Proof.Machine

/-- The registers of the window (10_state.md section 2). -/
inductive Reg where
  | param | operand | cmd | status | result
  deriving DecidableEq, Repr

/-- One request of the register-access port (20_memory.md R41): kind, bus address, size in bytes, and for a write
the data, which has 8n bits: data of more bits is no request (log entry 15). -/
inductive Request where
  | read (addr n : Nat)
  | write (addr n : Nat) (wdata : BitVec (8 * n))
  deriving DecidableEq, Repr

/-- The response code of an access (20_memory.md R41). -/
inductive Resp where
  | okay | error
  deriving DecidableEq, Repr

/-- The response of the port (20_memory.md R41). `rdata` is meaningful for reads only, so a write that is OKAY has
none; a bus error has rdata 0 (R44). -/
structure Response where
  resp : Resp
  rdata : Option Word
  deriving DecidableEq, Repr

/-- One operation of a host program (30_encoding.md R73, R74). -/
inductive HostOp where
  /-- `RD <reg>`: an 8-byte read at the register's offset. -/
  | rd (r : Reg)
  /-- `WR <reg>, <value>`: an 8-byte write at the register's offset. -/
  | wr (r : Reg) (v : Word)
  /-- `WR OPERAND, v` of an integer `v` of the host's software. The host rejects a negative `v`, or one of more than
  64 bits, before the write (60_exceptions.md R109, R111; 90_conflicts.md C3; log entry 21). -/
  | wrOperand (v : Int)
  /-- `WAIT`: read STATUS again and again until BUSY reads 0. -/
  | wait
  /-- Any other access, by bus address and size (00_scope.md R14). -/
  | access (q : Request)
  deriving DecidableEq, Repr

/-- Why a bus master stopped. -/
inductive HostFault where
  /-- An access at this bus address ended with the response ERROR (20_memory.md R44). -/
  | busError (addr : Nat)
  /-- The host rejected this value before it wrote it: it is negative (60_exceptions.md R109) or has more than 64 bits
  (R111). Nothing reached the unit (log entry 21). -/
  | rejected (v : Int)
  deriving DecidableEq, Repr

/-- One bus master of the host agent (40_command_cycle.md R75; log entry 8): the operations it has still to
perform, the responses it got, newest first (log entry 19), and what stopped it. -/
structure Master where
  prog : List HostOp
  responses : List Response
  fault : Option HostFault
  deriving DecidableEq, Repr

/-- Which of the three sources of steps moves next (40_command_cycle.md R75; log entry 7). -/
inductive Turn where
  /-- Bus master number `k` performs its next access. -/
  | host (k : Nat)
  /-- The unit performs its completion step, if it is enabled. -/
  | unit
  /-- The reset input performs the reset step. -/
  | reset
  deriving DecidableEq, Repr

/-- TBL (10_state.md R34): entry `i` for `i` below `entries.length` is specified, the `i`-th of `entries`; every
other entry is unspecified, and holds the free value of draw `draw` (log entry 3). -/
structure Table where
  entries : List Bit
  draw : Nat
  deriving DecidableEq, Repr

/-- The machine. The fields up to `opQ` are the state tuple of 10_state.md R21, the rest are the model's own. -/
structure State where
  /-- OPERAND (10_state.md R24). -/
  operand : Word
  /-- RESULT (10_state.md R25). -/
  result : Word
  /-- STATUS.BUSY (10_state.md R28). -/
  busy : Bool
  /-- STATUS.OVR (10_state.md R29). -/
  ovr : Bool
  /-- STATUS.ERR (10_state.md R30). -/
  err : BitVec 4
  /-- STATUS.TABLE_VALID (10_state.md R31). -/
  tableValid : Bool
  /-- STATUS.TABLE_W (10_state.md R32). -/
  tableW : BitVec 5
  /-- TBL (10_state.md R34). -/
  tbl : Table
  /-- CMD_Q, the latched command word (10_state.md R36). -/
  cmdQ : Word
  /-- OP_Q, the latched operand (10_state.md R36). -/
  opQ : Word
  /-- The MODEL's own: how many free draws were made (log entry 4). -/
  draws : Nat
  /-- The MODEL's own: the host agent's bus masters (log entry 8). -/
  masters : List Master
  /-- The MODEL's own: the interleaving of the agents, soonest first (log entry 7). -/
  turns : List Turn
  deriving DecidableEq, Repr

/-- Why a step stops with a fault. -/
inductive Fault where
  /-- Raised by `step` on a state whose STATUS.ERR holds a reserved code 7 .. 15: outside the spec, stuck
  (93_implementation_defined.md; 60_exceptions.md R113; log entry 11). Safe: no run reaches such a state. -/
  | reservedErrCode (code : BitVec 4)
  deriving DecidableEq, Repr

/-- Why an instruction has no meaning. -/
inductive Refusal where
  /-- Raised by `exec` for a command that has no meaning in the model. Safe. No command of this model is one. -/
  | notModelled (mnemonic : String)
  deriving DecidableEq, Repr

/-- The machine right after reset (70_reset_and_hazards.md R127): every register the spec gives a value is 0; every
entry of TBL is a free value; CMD_Q and OP_Q, which the spec leaves unspecified, are 0 (DESIGN CHOICE, unsafe: log
entry 1); no host program and no interleaving is set (log entries 10 and 20). -/
def State.reset : State where
  operand := 0
  result := 0
  busy := false
  ovr := false
  err := 0
  tableValid := false
  tableW := 0
  tbl := { entries := [], draw := 0 }
  cmdQ := 0
  opQ := 0
  draws := 1
  masters := []
  turns := []

end Sys2Proof.Machine
end

