-- ==== Sys2Proof/Machine/Flags.lean ====
section
/-! DEFINITION. The STATUS register and its completion codes. The unit has no arithmetic flags (10_state.md R38): a
command's only flag is the outcome code in STATUS.ERR (60_exceptions.md R105). -/

namespace Sys2Proof.Machine

/-- The error kinds of 60_exceptions.md R105. -/
inductive ErrKind where
  | none | illegalCommand | invalidWidth | negativeInput | tableInvalid | inputRange | indexRange
  deriving DecidableEq, Repr

/-- The code STATUS.ERR holds for an error kind (60_exceptions.md R105). -/
def errCode : ErrKind → BitVec 4
  | .none => 0
  | .illegalCommand => 1
  | .invalidWidth => 2
  | .negativeInput => 3
  | .tableInvalid => 4
  | .inputRange => 5
  | .indexRange => 6

/-- Codes 7 to 15 are reserved (60_exceptions.md R113), and a state that holds one is stuck. Code 3 is not among them:
it has a name that the unit never raises (R109), and 93_implementation_defined.md makes only 7 to 15 stuck. DESIGN
CHOICE, safe: a state that holds code 3 is outside the spec too, and a step from it goes on as usual (log entry 11). -/
def errReserved (e : BitVec 4) : Bool := decide (7 ≤ e.toNat)

/-- The value a host read of STATUS returns: zext_64 of
TABLE_W[4:0], seven zeros, TABLE_VALID, ERR[3:0], two zeros, OVR, BUSY (10_state.md R27; 20_memory.md R46). -/
def State.statusWord (s : State) : Word :=
  (s.tableW ++ (0 : BitVec 7) ++ BitVec.ofBool s.tableValid ++ s.err ++ (0 : BitVec 2) ++ BitVec.ofBool s.ovr
    ++ BitVec.ofBool s.busy).setWidth 64

/-- The STATUS bit that a write of 1 clears: bit 1, OVR (10_state.md R27, R29). -/
def clearsOvr (v : Word) : Bool := v.getLsbD 1

/-- The STATUS bit a host polls: bit 0, BUSY (10_state.md R27; 30_encoding.md R74). -/
def readsBusy (v : Word) : Bool := v.getLsbD 0

end Sys2Proof.Machine
end

