-- ==== Sys2Proof/Machine/Operands.lean ====
section
/-! DEFINITION. What the commands read: the latched operand, the widths of the command word and their legal ranges,
the sub-words of the operand, the entries of the table; and popcount and parity of a value (00_scope.md R12). -/

namespace Sys2Proof.Machine

/-- The number of 1 bits of a value (00_scope.md R12). -/
def popcount (v : Word) : Nat := (List.range 64).countP fun i => v.getLsbD i

/-- popcount mod 2 (00_scope.md R12, R17). -/
def parityOf (v : Word) : Nat := popcount v % 2

/-- 1 <= W <= W_MAX (00_scope.md R8). -/
def legalW (w : Nat) : Bool := decide (1 ≤ w ∧ w ≤ Config.wMax)

/-- 1 <= N <= XLEN (00_scope.md R8). -/
def legalN (n : Nat) : Bool := decide (1 ≤ n ∧ n ≤ Config.xlen)

/-- mask = 2^W - 1 (00_scope.md R8, R20). It is computed, never stored. -/
def maskOf (w : Nat) : Nat := 2 ^ w - 1

/-- (x >> shift) & mask: the sub-word of width `w` at bit position `shift` (43_cached_parity.md R99; 00_scope.md
R18). -/
def subWord (x : Word) (shift w : Nat) : Nat := (x.toNat >>> shift) &&& maskOf w

/-- TBL[i] (10_state.md R34): a specified entry, or the free value of the table's draw (log entry 3). -/
def Table.read (t : Table) (i : Nat) : Bit := t.entries.getD i (Config.freeTblEntry t.draw i)

/-- The form of a table: at most 2^W_MAX entries are specified (10_state.md R34). -/
def Table.wf (t : Table) : Bool := decide (t.entries.length ≤ 2 ^ Config.wMax)

/-- zext_64 of a one-bit value (00_scope.md R11; 40_command_cycle.md R80). -/
def zextBit (b : Bit) : Word := b.setWidth 64

end Sys2Proof.Machine
end

