-- ==== Sys2Proof/Machine/Ops.lean ====
section
/-! DEFINITION. The shared operations: acceptance and overrun, the two ways a command completes, the reset step, and
the register-access port. -/

namespace Sys2Proof.Machine

/-! ### Acceptance (40_command_cycle.md section 2) -/

/-- Accept(c): latch the command word and the operand, clear ERR, set BUSY (40_command_cycle.md R76). -/
def State.accept (c : Word) (s : State) : State :=
  { s with cmdQ := c, opQ := s.operand, err := errCode .none, busy := true }

/-- A CMD write that finds the unit busy is dropped; its only effect is OVR (40_command_cycle.md R77). -/
def State.overrun (s : State) : State := { s with ovr := true }

/-! ### Completion (40_command_cycle.md section 3) -/

/-- The writes of a command that succeeds (40_command_cycle.md R79): RESULT, or the table with its width. The list
holds the entries the command specifies; all others are unspecified (42_parity_table.md R95). -/
inductive Writes where
  | result (v : Word)
  | table (entries : List Bit) (w : Nat)
  deriving DecidableEq, Repr

/-- What Execute answers: ok(writes) or err(code) (40_command_cycle.md R79). -/
inductive ExecResult where
  | ok (writes : Writes)
  | err (kind : ErrKind)
  deriving DecidableEq, Repr

/-- Completion with a RESULT (40_command_cycle.md R78, R80). -/
def State.succeedResult (v : Word) (s : State) : State :=
  { s with result := v, err := errCode .none, busy := false }

/-- Completion with a new table: TBL, TABLE_W and TABLE_VALID in one step, unspecified entries from a fresh draw
(40_command_cycle.md R78, R80; 42_parity_table.md R95; log entry 3). -/
def State.succeedTable (entries : List Bit) (w : Nat) (s : State) : State :=
  { s with
    tbl := { entries := entries, draw := s.draws }, draws := s.draws + 1
    tableW := BitVec.ofNat 5 w, tableValid := true, err := errCode .none, busy := false }

/-- The one way every error is taken: ERR and BUSY are written and nothing else (40_command_cycle.md R81;
60_exceptions.md R104, R116). There is no trap and no return from one (R116, R117). -/
def State.failWith (k : ErrKind) (s : State) : State := { s with err := errCode k, busy := false }

/-- The completion step's writes for an outcome of Execute (40_command_cycle.md R78). -/
def State.complete (out : ExecResult) (s : State) : State :=
  match out with
  | .ok (.result v) => s.succeedResult v
  | .ok (.table es w) => s.succeedTable es w
  | .err k => s.failWith k

/-! ### Reset (70_reset_and_hazards.md section 1) -/

/-- The reset step during a run (70_reset_and_hazards.md R127, R128): the registers to 0, every entry of TBL a free
value, CMD_Q and OP_Q free values (log entries 2 and 3). The host agent is not the unit's state. -/
def State.resetUnit (s : State) : State :=
  { s with
    operand := 0, result := 0, busy := false, ovr := false, err := errCode .none, tableValid := false, tableW := 0
    tbl := { entries := [], draw := s.draws }, cmdQ := Config.freeCmdQ s.draws, opQ := Config.freeOpQ s.draws
    draws := s.draws + 1 }

/-! ### The register-access port (20_memory.md) -/

/-- OPERAND <- v (20_memory.md R47). -/
def State.setOperand (v : Word) (s : State) : State := { s with operand := v }

/-- STATUS.OVR <- 0 (20_memory.md R47). -/
def State.clearOvr (s : State) : State := { s with ovr := false }

/-- A register's offset from UNIT_BASE (10_state.md section 2). -/
def Reg.offset : Reg → Nat
  | .param => 0x00
  | .operand => 0x08
  | .cmd => 0x10
  | .status => 0x18
  | .result => 0x20

/-- The register at an offset; 0x28, 0x30, 0x38 are reserved and no offset off the 8-byte grid is a register's
(20_memory.md R43, R45). -/
def regAt (off : Nat) : Option Reg :=
  match off with
  | 0x00 => some .param
  | 0x08 => some .operand
  | 0x10 => some .cmd
  | 0x18 => some .status
  | 0x20 => some .result
  | _ => none

/-- What a read of a register returns (20_memory.md R46). -/
def readReg (r : Reg) (s : State) : Word :=
  match r with
  | .param => Config.param
  | .operand => s.operand
  | .cmd => 0
  | .status => s.statusWord
  | .result => s.result

/-- What a write of a register does (20_memory.md R47, R48). -/
def writeReg (r : Reg) (v : Word) (s : State) : State :=
  match r with
  | .param => s
  | .operand => s.setOperand v
  | .cmd => if s.busy then s.overrun else s.accept v
  | .status => if clearsOvr v then s.clearOvr else s
  | .result => s

/-- The response OKAY of a read (20_memory.md R46). -/
def okayRead (rdata : Word) : Response := { resp := .okay, rdata := some rdata }

/-- The response OKAY of a write (20_memory.md R47). -/
def okayWrite : Response := { resp := .okay, rdata := none }

/-- raise BusError: the response ERROR with rdata 0 (20_memory.md R44). -/
def busError : Response := { resp := .error, rdata := some 0 }

/-- The register a legal access reaches: 8 bytes at the offset of a register (20_memory.md R43, R45). -/
def legalReg (off n : Nat) : Option Reg := if n = 8 ∧ off % 8 = 0 then regAt off else none

/-- A read at an offset of the window (20_memory.md R43 to R46): it has no side effect. -/
def portRead (off n : Nat) (s : State) : Response :=
  match legalReg off n with
  | some r => okayRead (readReg r s)
  | none => busError

/-- A write at an offset of the window (20_memory.md R43 to R45, R47): a bus error changes nothing. -/
def portWrite (off n : Nat) (v : Word) (s : State) : Response × State :=
  match legalReg off n with
  | some r => (okayWrite, writeReg r v s)
  | none => (busError, s)

/-- UNIT_BASE <= addr < UNIT_BASE + 0x40 (20_memory.md R42). -/
def inWindow (addr : Nat) : Bool :=
  decide (Config.unitBase ≤ addr ∧ addr < Config.unitBase + Config.windowBytes)

/-- off = addr - UNIT_BASE (20_memory.md R42). -/
def offsetOf (addr : Nat) : Nat := addr - Config.unitBase

/-- The bus address of a request. -/
def Request.addr : Request → Nat
  | .read a _ => a
  | .write a _ _ => a

/-- MemRead and MemWrite (00_scope.md R14; 20_memory.md R42, R46, R47): the unit's response, if the access is to the
unit, and the state after it. The unit does not see an access outside its window (log entry 9). The data of a legal
write has exactly 64 bits (R43), so widening or narrowing it to a register's width changes no legal write. -/
def busAccess (q : Request) (s : State) : Option Response × State :=
  match q with
  | .read a n => if inWindow a then (some (portRead (offsetOf a) n s), s) else (none, s)
  | .write a n v =>
    if inWindow a then
      let out := portWrite (offsetOf a) n (v.setWidth 64) s
      (some out.1, out.2)
    else (none, s)

end Sys2Proof.Machine
end

