-- ==== Sys2Proof/Machine/BitCount.lean ====
section
/-! DEFINITION. COUNT_BITS, PARITY, PARITY_FAST (41_bit_count_parity.md). The loops are the spec's own; each runs at
most 64 times (R90 to R92, 00_scope.md R15), which is the fuel (log entry 17). -/

namespace Sys2Proof.Machine

/-- The loop of 41_bit_count_parity.md R90: add the low bit, shift right, until v is 0. -/
def countLoop : Nat → Word → Nat → Nat
  | 0, _, c => c
  | k + 1, v, c => if v = 0 then c else countLoop k (v >>> 1) (c + (v &&& 1).toNat)

/-- The loop of 41_bit_count_parity.md R91: XOR in the low bit, shift right, until v is 0. -/
def parityLoop : Nat → Word → Bit → Bit
  | 0, _, p => p
  | k + 1, v, p => if v = 0 then p else parityLoop k (v >>> 1) (p ^^^ (v &&& 1).setWidth 1)

/-- The loop of 41_bit_count_parity.md R92: flip, erase the lowest set bit, until v is 0. -/
def parityFastLoop : Nat → Word → Bit → Bit
  | 0, _, p => p
  | k + 1, v, p => if v = 0 then p else parityFastLoop k (v &&& (v - 1)) (p ^^^ 1)

/-- The parity of x by bit scan (41_bit_count_parity.md R91); BUILD_TABLE fills its entries with it. -/
def parityScan (x : Word) : Bit := parityLoop 64 x 0

/-- Exec_COUNT_BITS (41_bit_count_parity.md R90). -/
def evalCountBits (x : Word) : ExecResult := .ok (.result (BitVec.ofNat 64 (countLoop 64 x 0)))

/-- Exec_PARITY (41_bit_count_parity.md R91). -/
def evalParity (x : Word) : ExecResult := .ok (.result (zextBit (parityScan x)))

/-- Exec_PARITY_FAST (41_bit_count_parity.md R92). -/
def evalParityFast (x : Word) : ExecResult := .ok (.result (zextBit (parityFastLoop 64 x 0)))

/-- COUNT_BITS completes (41_bit_count_parity.md R90; 40_command_cycle.md R78). -/
def execCountBits (s : State) : Host.Outcome State Fault Refusal :=
  .next (s.complete (evalCountBits s.opQ))

/-- PARITY completes (41_bit_count_parity.md R91; 40_command_cycle.md R78). -/
def execParity (s : State) : Host.Outcome State Fault Refusal :=
  .next (s.complete (evalParity s.opQ))

/-- PARITY_FAST completes (41_bit_count_parity.md R92; 40_command_cycle.md R78). -/
def execParityFast (s : State) : Host.Outcome State Fault Refusal :=
  .next (s.complete (evalParityFast s.opQ))

end Sys2Proof.Machine
end

