-- ==== Sys2Proof/Machine/CachedParity.lean ====
section
/-! DEFINITION. PARITY_CACHED (43_cached_parity.md). -/

namespace Sys2Proof.Machine

/-- The loop of 43_cached_parity.md R99: for j in 0 .. S - 1, most significant sub-word first, XOR in the table's
entry of (x >> (W * (S - 1 - j))) & mask. -/
def cachedLoop (t : Table) (x : Word) (w lanes : Nat) : Bit :=
  (List.range lanes).foldl (fun r j => r ^^^ t.read (subWord x (w * (lanes - 1 - j)) w)) 0

/-- Exec_PARITY_CACHED (43_cached_parity.md R99), its checks in the written order (60_exceptions.md R114). -/
def evalParityCached (x : Word) (n w : Nat) (valid : Bool) (tw : BitVec 5) (t : Table) : ExecResult :=
  if legalW w = false then .err .invalidWidth
  else if legalN n = false then .err .invalidWidth
  else if n % w ≠ 0 then .err .invalidWidth
  else if valid = false then .err .tableInvalid
  else if w ≠ tw.toNat then .err .invalidWidth
  else if n < Config.xlen ∧ 2 ^ n ≤ x.toNat then .err .inputRange
  else .ok (.result (zextBit (cachedLoop t x w (n / w))))

/-- PARITY_CACHED completes (43_cached_parity.md R99; 40_command_cycle.md R78). -/
def execParityCached (n w : Nat) (s : State) : Host.Outcome State Fault Refusal :=
  .next (s.complete (evalParityCached s.opQ n w s.tableValid s.tableW s.tbl))

end Sys2Proof.Machine
end

