-- ==== Sys2Proof/Machine/ParityTable.lean ====
section
/-! DEFINITION. BUILD_TABLE and TABLE_READ (42_parity_table.md). -/

namespace Sys2Proof.Machine

/-- The entries BUILD_TABLE specifies: t[i] = parity(i) for i in 0 .. 2^W - 1, computed as Exec_PARITY
(42_parity_table.md R95). -/
def builtEntries (w : Nat) : List Bit := (List.range (2 ^ w)).map fun i => parityScan (BitVec.ofNat 64 i)

/-- Exec_BUILD_TABLE (42_parity_table.md R95). -/
def evalBuildTable (w : Nat) : ExecResult :=
  if legalW w then .ok (.table (builtEntries w) w) else .err .invalidWidth

/-- Exec_TABLE_READ (42_parity_table.md R96), its checks in the written order. -/
def evalTableRead (x : Word) (valid : Bool) (tw : BitVec 5) (t : Table) : ExecResult :=
  if valid = false then .err .tableInvalid
  else if 2 ^ tw.toNat ≤ x.toNat then .err .indexRange
  else .ok (.result (zextBit (t.read x.toNat)))

/-- BUILD_TABLE completes (42_parity_table.md R95; 40_command_cycle.md R78). OP_Q is not read. -/
def execBuildTable (w : Nat) (s : State) : Host.Outcome State Fault Refusal :=
  .next (s.complete (evalBuildTable w))

/-- TABLE_READ completes (42_parity_table.md R96; 40_command_cycle.md R78). -/
def execTableRead (s : State) : Host.Outcome State Fault Refusal :=
  .next (s.complete (evalTableRead s.opQ s.tableValid s.tableW s.tbl))

end Sys2Proof.Machine
end

