-- ==== Sys2Proof/Machine/Dispatch.lean ====
section
/-! DEFINITION. exec: the completion of a decoded command, one direct call of its meaning an arm
(40_command_cycle.md R78, R79). -/

namespace Sys2Proof.Machine

-- The completion step of the accepted command `i`, in the state whose latch OP_Q holds its operand (log entry 12).
def exec (i : Instr) (s : State) : Host.Outcome State Fault Refusal :=
  match i with
  | .countBits => Sys2Proof.Machine.execCountBits s
  | .parity => Sys2Proof.Machine.execParity s
  | .parityFast => Sys2Proof.Machine.execParityFast s
  | .buildTable w => Sys2Proof.Machine.execBuildTable w s
  | .parityCached n w => Sys2Proof.Machine.execParityCached n w s
  | .tableRead => Sys2Proof.Machine.execTableRead s

end Sys2Proof.Machine
end

