-- ==== Sys2Proof/Machine/Cycle.lean ====
section
/-! DEFINITION. The three sources of steps (40_command_cycle.md R75): the unit's completion step, which decodes
CMD_Q; a bus master's next access; the reset step. And which of them moves next. -/

namespace Sys2Proof.Machine

/-! ### The unit -/

/-- A decoded word completes: a command by its meaning, an ILLEGAL word with ILLEGAL_COMMAND
(40_command_cycle.md R79; 30_encoding.md R69; 60_exceptions.md R107). -/
def execDecoded (d : Decoded) (s : State) : Host.Outcome State Fault Refusal :=
  match d with
  | .illegal _ => .next (s.failWith .illegalCommand)
  | .command i => exec i s

/-- The unit's step: enabled exactly when BUSY = 1, it decodes CMD_Q and completes (40_command_cycle.md R78). Where
it is not enabled, nothing happens. -/
def unitStep (s : State) : Host.Outcome State Fault Refusal :=
  if s.busy then execDecoded (decode s.cmdQ) s else .next s

/-! ### The host (log entry 8) -/

/-- The bus address an operation accesses (30_encoding.md R73, R74). -/
def HostOp.addr : HostOp → Nat
  | .rd r => Config.unitBase + r.offset
  | .wr r _ => Config.unitBase + r.offset
  | .wrOperand _ => Config.unitBase + Reg.operand.offset
  | .wait => Config.unitBase + Reg.status.offset
  | .access q => q.addr

/-- Can OPERAND hold this integer: is it neither negative nor of more than 64 bits (60_exceptions.md R109, R111)? -/
def fitsOperand (v : Int) : Bool := decide (0 ≤ v ∧ v < 2 ^ 64)

/-- What the host rejects before any access: a value OPERAND cannot hold (60_exceptions.md R109, R111; 90_conflicts.md
C3; log entry 21). -/
def HostOp.rejection (op : HostOp) : Option HostFault :=
  match op with
  | .wrOperand v => if fitsOperand v then none else some (.rejected v)
  | .rd _ => none
  | .wr _ _ => none
  | .wait => none
  | .access _ => none

/-- The access an operation performs: `RD` and `WR` at the register's offset (30_encoding.md R73), `WAIT` a read of
STATUS (R74), any other by its address. -/
def HostOp.perform (op : HostOp) (s : State) : Option Response × State :=
  match op with
  | .rd r => (some (portRead r.offset 8 s), s)
  | .wr r v => (some (portWrite r.offset 8 v s).1, (portWrite r.offset 8 v s).2)
  | .wrOperand v =>
    (some (portWrite Reg.operand.offset 8 (BitVec.ofInt 64 v) s).1,
      (portWrite Reg.operand.offset 8 (BitVec.ofInt 64 v) s).2)
  | .wait => (some (portRead Reg.status.offset 8 s), s)
  | .access q => busAccess q s

/-- Is the operation still to be performed after this response? Only `WAIT` after a read of BUSY = 1
(30_encoding.md R74). -/
def HostOp.repeats (op : HostOp) (r : Response) : Bool :=
  match op with
  | .wait => r.rdata.any readsBusy
  | .rd _ => false
  | .wr _ _ => false
  | .wrOperand _ => false
  | .access _ => false

/-- The fault a master records at an access, where the response is ERROR (20_memory.md R44). -/
def faultOf (op : HostOp) (r : Response) : Option HostFault :=
  match r.resp with
  | .error => some (.busError op.addr)
  | .okay => none

/-- A master after its operation `op`, with `rest` to follow (20_memory.md R41, R44). No response comes from the
unit for an access outside the window (R42; log entry 9). -/
def Master.afterOp (op : HostOp) (rest : List HostOp) (r : Option Response) (m : Master) : Master :=
  match r with
  | none => { m with prog := rest }
  | some resp =>
    { prog := if op.repeats resp then op :: rest else rest
      responses := resp :: m.responses
      fault := faultOf op resp }

/-- A master that rejects the value of its operation: it performs no access and stops (log entry 21). -/
def Master.reject (f : HostFault) (rest : List HostOp) (m : Master) : Master := { m with prog := rest, fault := some f }

/-- The step of bus master `k`: one access (40_command_cycle.md R75), or the rejection of a value before its write
(60_exceptions.md R111). A master that a fault stopped, or with no operation left, performs none (20_memory.md R44). -/
def hostStep (k : Nat) (s : State) : State :=
  match s.masters[k]? with
  | none => s
  | some m =>
    match m.fault, m.prog with
    | some _, _ => s
    | none, [] => s
    | none, op :: rest =>
      match op.rejection with
      | some f => { s with masters := s.masters.set k (m.reject f rest) }
      | none =>
        let out := op.perform s
        { out.2 with masters := s.masters.set k (m.afterOp op rest out.1) }

/-- May this master perform an access? -/
def Master.canStep (m : Master) : Bool := m.fault.isNone && !m.prog.isEmpty

/-! ### Who moves (log entry 7) -/

/-- One turn of an agent. -/
def takeTurn (t : Turn) (s : State) : Host.Outcome State Fault Refusal :=
  match t with
  | .host k => .next (hostStep k s)
  | .unit => unitStep s
  | .reset => .next s.resetUnit

/-- The step when no turn is set: the unit completes if it can, which is the weak fairness of 40_command_cycle.md
R82; else the first master that can step does; else nothing happens. -/
def idleTurn (s : State) : Host.Outcome State Fault Refusal :=
  if s.busy then unitStep s
  else match s.masters.findIdx? Master.canStep with
    | some k => .next (hostStep k s)
    | none => .next s

/-- One step of the system: stuck where ERR holds a reserved code 7 .. 15 (93_implementation_defined.md), else the next
turn, from a state that holds code 3 too (DESIGN CHOICE: log entry 11, which names both). -/
def systemStep (s : State) : Host.Outcome State Fault Refusal :=
  if errReserved s.err then .fault (.reservedErrCode s.err)
  else match s.turns with
    | [] => idleTurn s
    | t :: rest => takeTurn t { s with turns := rest }

/-- A command word accepted (40_command_cycle.md R76) with the unit's turn next. -/
def acceptForNextStep (c : Word) (s : State) : State :=
  { s.accept c with turns := .unit :: s.turns }

/-! ### Host programs (30_encoding.md R74; 70_reset_and_hazards.md R130) -/

/-- `EXEC <command>`. -/
def seqExec (i : Instr) : List HostOp := [.wr .cmd (encode i), .wait]

/-- `CLR_OVR`. -/
def seqClrOvr : List HostOp := [.wr .status 0x2]

/-- `CALL <command>, x`. -/
def seqCall (i : Instr) (x : Word) : List HostOp := .wr .operand x :: seqExec i ++ [.rd .status, .rd .result]

/-- The boot sequence after reset, steps 2 to 5 (70_reset_and_hazards.md R130). -/
def seqBoot (w : Nat) : List HostOp := .rd .param :: seqExec (.buildTable w) ++ [.rd .status]

/-- A bus master about to run a program. -/
def Master.start (prog : List HostOp) : Master := { prog := prog, responses := [], fault := none }

end Sys2Proof.Machine
end

