-- ==== Sys2Proof/Machine/Step.lean ====
section
/-! DEFINITION. The step, and the state in which the next step runs a given command word. -/

namespace Sys2Proof.Machine

/-- One step of the machine (40_command_cycle.md R75). -/
def step (s : State) : Host.Outcome State Fault Refusal := systemStep s

/-- `s` with the command word of an opcode-table row latched as an acceptance latches it, and the unit to move next
(log entry 10): the unit fetches no instructions, a command word reaches it by a CMD write (20_memory.md R58). -/
def State.withFetchWord (s : State) (nbits w : Nat) : State :=
  acceptForNextStep (wordOfBytes (bytesOfWord (BitVec.ofNat 64 (w % 2 ^ nbits)))) s

end Sys2Proof.Machine
end

