-- ==== Sys2Proof/Safety.lean ====
section
/-! DEFINITION. What claims are stated in: the invariant of the reachable states, the state of the unit apart from the
host agent, which step comes next, the lanes of an operand and the trees that combine them, and what a host may rely
on. -/

namespace Sys2Proof.Safety

open Sys2Proof.Machine

/-- Execute(c, x, valid, tw, tbl) of 40_command_cycle.md R79: a total pure function of its arguments. -/
def execute (c x : Word) (valid : Bool) (tw : BitVec 5) (t : Table) : ExecResult :=
  match decode c with
  | .illegal _ => .err .illegalCommand
  | .command .countBits => evalCountBits x
  | .command .parity => evalParity x
  | .command .parityFast => evalParityFast x
  | .command (.buildTable w) => evalBuildTable w
  | .command .tableRead => evalTableRead x valid tw t
  | .command (.parityCached n w) => evalParityCached x n w valid tw t

/-- The parity of an index, as a table entry (10_state.md R35). -/
def parityBit (i : Nat) : Bit := BitVec.ofNat 1 (parityOf (BitVec.ofNat 64 i))

/-- The invariant of the machine's states. -/
structure Inv (s : State) : Prop where
  /-- A valid table's width is legal (10_state.md R32). -/
  widthLegal : s.tableValid = true → 1 ≤ s.tableW.toNat ∧ s.tableW.toNat ≤ Config.wMax
  /-- With no valid table TABLE_W is 0 (10_state.md R32). -/
  widthZero : s.tableValid = false → s.tableW = 0
  /-- TBL[i] = parity(i) below 2^TABLE_W (10_state.md R35). -/
  table : s.tableValid = true → ∀ i, i < 2 ^ s.tableW.toNat → s.tbl.read i = parityBit i
  /-- While BUSY = 1, ERR reads 0 (10_state.md R30). -/
  errClear : s.busy = true → s.err = 0
  /-- No reserved code is held (60_exceptions.md R113). -/
  errLegal : s.err.toNat < 7
  /-- NEGATIVE_INPUT is never produced (60_exceptions.md R109). -/
  errNotNegative : s.err ≠ errCode .negativeInput
  /-- No more entries are specified than TBL has (10_state.md R34). -/
  tableForm : s.tbl.wf = true

/-- The table state: TBL, TABLE_VALID and TABLE_W, the state that outlives a command (10_state.md R21). -/
def sameTable (a b : State) : Prop := a.tbl = b.tbl ∧ a.tableValid = b.tableValid ∧ a.tableW = b.tableW

/-- The same state of the unit, whatever the host agent and the interleaving are (10_state.md R21). -/
def sameUnit (a b : State) : Prop :=
  a.operand = b.operand ∧ a.result = b.result ∧ a.busy = b.busy ∧ a.ovr = b.ovr ∧ a.err = b.err ∧
    sameTable a b ∧ a.cmdQ = b.cmdQ ∧ a.opQ = b.opQ

/-- Is the next step the reset step? -/
def nextIsReset (s : State) : Bool :=
  match s.turns with
  | .reset :: _ => true
  | _ => false

/-- Is the next step a completion? -/
def nextIsCompletion (s : State) : Bool :=
  match s.turns with
  | [] => s.busy
  | .unit :: _ => s.busy
  | _ => false

/-- Does this word build a table when it completes? (42_parity_table.md R95) -/
def buildsTable (c : Word) : Bool :=
  match decode c with
  | .command (.buildTable w) => legalW w
  | _ => false

/-- Is the next step one of the two that change the table: reset, or the successful completion of BUILD_TABLE
(42_parity_table.md R97)? -/
def nextChangesTable (s : State) : Bool := nextIsReset s || (nextIsCompletion s && buildsTable s.cmdQ)

/-- Lane k of the operand: x[W*k + W - 1 : W*k] (43_cached_parity.md R100). -/
def laneOf (x : Word) (w k : Nat) : Nat := (x.extractLsb' (w * k) w).toNat

/-- A tree that combines look-ups: a leaf is the lane it looks up (43_cached_parity.md R103). -/
inductive CombineTree where
  | lane (k : Nat)
  | node (l r : CombineTree)
  deriving DecidableEq, Repr

/-- The lanes of a tree, left to right. -/
def CombineTree.lanes : CombineTree → List Nat
  | .lane k => [k]
  | .node l r => l.lanes ++ r.lanes

/-- The bit a tree of XORs computes from the table's entries of its lanes (43_cached_parity.md R100, R103). -/
def CombineTree.value (t : Table) (x : Word) (w : Nat) : CombineTree → Bit
  | .lane k => t.read (laneOf x w k)
  | .node l r => l.value t x w ^^^ r.value t x w

/-- A host may write CMD without an overrun (70_reset_and_hazards.md R133). -/
def mayIssue (s : State) : Bool := !s.busy

/-- A host may use RESULT as the result of its last command (70_reset_and_hazards.md R132, R136). -/
def resultReady (s : State) : Bool := !s.busy && decide (s.err = 0)

/-- A host may rely on PARITY_CACHED and TABLE_READ with width `w`: the boot sequence's last check
(70_reset_and_hazards.md R130). -/
def tableReady (w : Nat) (s : State) : Bool := resultReady s && s.tableValid && decide (s.tableW.toNat = w)

end Sys2Proof.Safety
end

