-- ==== Sys2Proof/Certificates/Slice0/Obligations.lean ====
section
/-! DEFINITION. The statements for the provers. Each docstring names the rule of spec/ it formalises, or says that it
is the model's own. `exec i s = .next { s with … }` states an instruction's whole effect: a field that is not named
keeps its value. -/

open Sys2Proof Sys2Proof.Machine Sys2Proof.Safety

/-! ### Encoding (30_encoding.md) -/

/-- Decoding the command word of a well-formed command gives the command back, for every width its fields admit. -/
def Obligations.DecodeOfEncodeIsTheCommand : Prop :=
  ∀ i : Instr, i.wellFormed = true → decode (encode i) = .command i

/-- Every word that decodes to a command is that command's only command word, and the command is well formed. -/
def Obligations.EachCommandHasOneWord : Prop :=
  ∀ (c : Word) (i : Instr), decode c = .command i → encode i = c ∧ i.wellFormed = true

/-- R67: a word decodes to the command of the opcode-table row that holds, with W = c[12:8] and N = c[22:16]; it is
ILLEGAL exactly where no row holds; at most one row holds. -/
def Obligations.DecodeIsTheOpcodeTable : Prop :=
  (∀ (c : Word) (i : Instr), decode c = .command i →
    (∃ r ∈ opcodeRows, r.mnemonic = i.mnemonic ∧ c &&& r.mask = r.pat) ∧
    (∀ w, i = .buildTable w → w = (c.extractLsb' 8 5).toNat) ∧
    (∀ n w, i = .parityCached n w → w = (c.extractLsb' 8 5).toNat ∧ n = (c.extractLsb' 16 7).toNat)) ∧
  (∀ c : Word, (∃ why, decode c = .illegal why) ↔ ∀ r ∈ opcodeRows, c &&& r.mask ≠ r.pat) ∧
  (∀ c : Word, ∀ r ∈ opcodeRows, ∀ q ∈ opcodeRows, c &&& r.mask = r.pat → c &&& q.mask = q.pat → r = q)

/-- R68: enc(op, w, n) = n * 2^16 + w * 2^8 + op for 0 <= w <= 31 and 0 <= n <= 127, and the words of the standard
forms. -/
def Obligations.CommandWordsOfTheStandardForms : Prop :=
  (∀ op w n : Nat, op < 16 → w ≤ 31 → n ≤ 127 → (enc op w n).toNat = n * 2 ^ 16 + w * 2 ^ 8 + op) ∧
  encode .countBits = 0x0000000000000001#64 ∧ encode .parity = 0x0000000000000002#64 ∧
  encode .parityFast = 0x0000000000000003#64 ∧ encode (.buildTable 16) = 0x0000000000001004#64 ∧
  encode (.buildTable 2) = 0x0000000000000204#64 ∧ encode (.parityCached 64 16) = 0x0000000000401005#64 ∧
  encode (.parityCached 8 2) = 0x0000000000080205#64 ∧ encode .tableRead = 0x0000000000000006#64

/-- Words written out bit by bit from the fields of 30_encoding.md R61 decode to the commands their opcodes name (R66,
R67), and three ILLEGAL words (R67, R69) are refused. The names of the three refusals are the model's choice (log entry
16, after 60_exceptions.md R107). -/
def Obligations.WrittenWordsDecode : Prop :=
  decode 0b1#64 = .command .countBits ∧
  decode 0b10#64 = .command .parity ∧
  decode 0b11#64 = .command .parityFast ∧
  decode 0b000_11111_0000_0100#64 = .command (.buildTable 31) ∧
  decode 0b1000000_000_10000_0000_0101#64 = .command (.parityCached 64 16) ∧
  decode 0b1111111_000_00001_0000_0101#64 = .command (.parityCached 127 1) ∧
  decode 0b110#64 = .command .tableRead ∧
  decode 0#64 = .illegal .reservedOpcode ∧
  decode 0b1_0000_0001#64 = .illegal .unusedField ∧
  decode 0b1_0011#64 = .illegal .reservedBits

/-- R69: which words are ILLEGAL, and that an accepted one completes with ILLEGAL_COMMAND and changes nothing else. -/
def Obligations.IllegalWordsCompleteWithCodeOne : Prop :=
  ∀ c : Word,
    ((∃ why, decode c = .illegal why) ↔
      ((c.extractLsb' 0 4).toNat = 0 ∨ 7 ≤ (c.extractLsb' 0 4).toNat) ∨
      ((c.extractLsb' 4 4).toNat ≠ 0 ∨ (c.extractLsb' 13 3).toNat ≠ 0 ∨ (c.extractLsb' 23 41).toNat ≠ 0) ∨
      ((c.extractLsb' 0 4).toNat ∈ [1, 2, 3, 6] ∧
        ((c.extractLsb' 8 5).toNat ≠ 0 ∨ (c.extractLsb' 16 7).toNat ≠ 0)) ∨
      ((c.extractLsb' 0 4).toNat = 4 ∧ (c.extractLsb' 16 7).toNat ≠ 0)) ∧
    ((∃ why, decode c = .illegal why) → ∀ s : State, s.busy = true → s.cmdQ = c →
      unitStep s = .next { s with err := 1, busy := false })

/-- R70: a W or N out of range, in a field the command uses, is not an illegal encoding: the word decodes to its
command, and the command completes with INVALID_WIDTH. -/
def Obligations.OutOfRangeWidthsDecodeAndFail : Prop :=
  (∀ w, w ≤ 31 → decode (enc 4 w 0) = .command (.buildTable w)) ∧
  (∀ n w, n ≤ 127 → w ≤ 31 → decode (enc 5 w n) = .command (.parityCached n w)) ∧
  (∀ (s : State) (w : Nat), w ≤ 31 → (w = 0 ∨ Config.wMax < w) → s.busy = true → s.cmdQ = enc 4 w 0 →
    unitStep s = .next { s with err := 2, busy := false }) ∧
  (∀ (s : State) (n w : Nat), n ≤ 127 → w ≤ 31 →
    (w = 0 ∨ Config.wMax < w ∨ n = 0 ∨ Config.xlen < n ∨ n % w ≠ 0) → s.busy = true → s.cmdQ = enc 5 w n →
    unitStep s = .next { s with err := 2, busy := false })

/-! ### Bit count and parity (41_bit_count_parity.md) -/

/-- R90: COUNT_BITS completes with the number of 1 bits of OP_Q, for every operand; its word is exactly 0x1. -/
def Obligations.CountBitsWritesThePopcount : Prop :=
  (∀ s : State, popcount s.opQ ≤ 64 ∧
    exec .countBits s = .next { s with result := BitVec.ofNat 64 (popcount s.opQ), err := 0, busy := false }) ∧
  (∀ c : Word, decode c = .command .countBits ↔ c = 0x1#64)

/-- R91: PARITY completes with the parity of OP_Q, for every operand; its word is exactly 0x2. -/
def Obligations.ParityWritesTheParity : Prop :=
  (∀ s : State,
    exec .parity s = .next { s with result := BitVec.ofNat 64 (popcount s.opQ % 2), err := 0, busy := false }) ∧
  (∀ c : Word, decode c = .command .parity ↔ c = 0x2#64)

/-- R92: PARITY_FAST completes with the parity of OP_Q, for every operand; its word is exactly 0x3. -/
def Obligations.ParityFastWritesTheParity : Prop :=
  (∀ s : State,
    exec .parityFast s = .next { s with result := BitVec.ofNat 64 (popcount s.opQ % 2), err := 0, busy := false }) ∧
  (∀ c : Word, decode c = .command .parityFast ↔ c = 0x3#64)

/-- R93: for every operand PARITY and PARITY_FAST agree, and their RESULT is popcount mod 2, which is COUNT_BITS'
result taken mod 2. -/
def Obligations.NaiveCommandsAgree : Prop :=
  ∀ s : State, ∃ t u : State, exec .parity s = .next t ∧ exec .parityFast s = .next t ∧ exec .countBits s = .next u ∧
    t.result.toNat = popcount s.opQ % 2 ∧ u.result.toNat % 2 = t.result.toNat

/-- R94: the three naive commands neither read nor write the table state, their result depends only on x, and issuing
one never changes the outcome of a later PARITY_CACHED or TABLE_READ. -/
def Obligations.NaiveCommandsIgnoreTheTable : Prop :=
  ∀ i : Instr, i ∈ [Instr.countBits, .parity, .parityFast] → ∀ s : State, ∃ t : State, exec i s = .next t ∧
    sameTable t s ∧
    (∀ r : State, r.opQ = s.opQ → ∃ u : State, exec i r = .next u ∧ u.result = t.result ∧ u.err = t.err) ∧
    (∀ (j : Instr) (x : Word), (j = .tableRead ∨ ∃ n w, j = .parityCached n w) →
      ∃ a b : State, exec j { s with opQ := x } = .next a ∧ exec j { t with opQ := x } = .next b ∧ a.err = b.err ∧
        (a.err = 0 → a.result = b.result))

/-! ### The table (42_parity_table.md) -/

/-- R95: BUILD_TABLE of a legal W completes with TBL[i] = parity(i) below 2^W, TABLE_W and TABLE_VALID, and RESULT
unchanged; an illegal W completes with INVALID_WIDTH and nothing else; the words of the command. `draws` is the
model's own count of free draws. -/
def Obligations.BuildTableWritesTheParities : Prop :=
  (∀ (s : State) (w : Nat), 1 ≤ w → w ≤ Config.wMax → ∃ t : State, exec (.buildTable w) s = .next t ∧
    (∀ i, i < 2 ^ w → t.tbl.read i = BitVec.ofNat 1 (popcount (BitVec.ofNat 64 i) % 2)) ∧
    t = { s with tbl := t.tbl, draws := t.draws, tableW := BitVec.ofNat 5 w, tableValid := true, err := 0,
                 busy := false } ∧
    t.tableW.toNat = w) ∧
  (∀ (s : State) (w : Nat), (w = 0 ∨ Config.wMax < w) →
    exec (.buildTable w) s = .next { s with err := 2, busy := false }) ∧
  (∀ (c : Word) (w : Nat), decode c = .command (.buildTable w) ↔ w ≤ 31 ∧ c = enc 4 w 0)

/-- BUILD_TABLE 2 gives exactly [0, 1, 1, 0] (the example of 42_parity_table.md R95). -/
def Obligations.BuildTableTwoGivesItsExample : Prop :=
  ∀ s : State, ∃ t : State, exec (.buildTable 2) s = .next t ∧ t.tableW = 2 ∧ t.tableValid = true ∧
    [t.tbl.read 0, t.tbl.read 1, t.tbl.read 2, t.tbl.read 3] = [0, 1, 1, 0]

/-- R96: TABLE_READ completes with entry x of the table; without a table it gives TABLE_INVALID, at or above
2^TABLE_W INDEX_RANGE; its word is exactly 0x6. -/
def Obligations.TableReadReturnsTheEntry : Prop :=
  (∀ s : State, s.tableValid = true → s.opQ.toNat < 2 ^ s.tableW.toNat →
    exec .tableRead s =
      .next { s with result := (s.tbl.read s.opQ.toNat).setWidth 64, err := 0, busy := false }) ∧
  (∀ s : State, s.tableValid = false → exec .tableRead s = .next { s with err := 4, busy := false }) ∧
  (∀ s : State, s.tableValid = true → 2 ^ s.tableW.toNat ≤ s.opQ.toNat →
    exec .tableRead s = .next { s with err := 6, busy := false }) ∧
  (∀ c : Word, decode c = .command .tableRead ↔ c = 0x6#64)

/-- With the invariant, the entry TABLE_READ returns is the parity of its index (42_parity_table.md R96, 10_state.md
R35). -/
def Obligations.TableReadReturnsTheParityOfItsIndex : Prop :=
  ∀ s : State, Inv s → s.tableValid = true → s.opQ.toNat < 2 ^ s.tableW.toNat →
    exec .tableRead s =
      .next { s with result := BitVec.ofNat 64 (popcount s.opQ % 2), err := 0, busy := false }

/-- R97: only reset and the successful completion of BUILD_TABLE change TBL, TABLE_VALID or TABLE_W, and across any
run without either of them TABLE_READ gives the same at every index. -/
def Obligations.OnlyBuildAndResetChangeTheTable : Prop :=
  (∀ s t : State, step s = .next t → nextChangesTable s = false → sameTable t s) ∧
  (∀ (k : Nat) (s t : State), Host.Core.run Sys2Proof.core k s = .next t →
    (∀ (j : Nat) (u : State), j < k → Host.Core.run Sys2Proof.core j s = .next u → nextChangesTable u = false) →
    ∀ x : Word, evalTableRead x t.tableValid t.tableW t.tbl = evalTableRead x s.tableValid s.tableW s.tbl)

/-- Two successful BUILD_TABLE commands with one W leave tables that read alike, from any two states
(42_parity_table.md R98). -/
def Obligations.RebuildsReadAlike : Prop :=
  ∀ (s r : State) (w : Nat), 1 ≤ w → w ≤ Config.wMax → ∃ t u : State,
    exec (.buildTable w) s = .next t ∧ exec (.buildTable w) r = .next u ∧
    ∀ x : Word, evalTableRead x t.tableValid t.tableW t.tbl = evalTableRead x u.tableValid u.tableW u.tbl

/-! ### Cached parity (43_cached_parity.md) -/

/-- R99: every outcome of PARITY_CACHED, its checks in the written order, its value the XOR over j = 0 .. S - 1 of
the entries of the sub-words, most significant first; and the words of the command. -/
def Obligations.ParityCachedOutcomes : Prop :=
  (∀ (s : State) (n w : Nat), exec (.parityCached n w) s = .next
    (if w < 1 ∨ Config.wMax < w then { s with err := 2, busy := false }
     else if n < 1 ∨ Config.xlen < n then { s with err := 2, busy := false }
     else if n % w ≠ 0 then { s with err := 2, busy := false }
     else if s.tableValid = false then { s with err := 4, busy := false }
     else if w ≠ s.tableW.toNat then { s with err := 2, busy := false }
     else if n < Config.xlen ∧ 2 ^ n ≤ s.opQ.toNat then { s with err := 5, busy := false }
     else { s with
       result := (((List.range (n / w)).map fun j =>
         s.tbl.read ((s.opQ.toNat / 2 ^ (w * (n / w - 1 - j))) % 2 ^ w)).foldr (· ^^^ ·) 0).setWidth 64
       err := 0, busy := false })) ∧
  (∀ (c : Word) (n w : Nat), decode c = .command (.parityCached n w) ↔ n ≤ 127 ∧ w ≤ 31 ∧ c = enc 5 w n)

/-- R100: where its checks pass, PARITY_CACHED is the XOR of the look-ups of the S lanes x[W*k + W - 1 : W*k], lane 0
least significant, and no operand bit lies above the lanes. -/
def Obligations.ParityCachedIsTheXorOfItsLanes : Prop :=
  ∀ (s : State) (n w : Nat), 1 ≤ w → w ≤ Config.wMax → 1 ≤ n → n ≤ Config.xlen → n % w = 0 →
    s.tableValid = true → s.tableW.toNat = w → s.opQ.toNat < 2 ^ n →
    exec (.parityCached n w) s = .next { s with
      result := (((List.range (n / w)).map fun k => s.tbl.read (s.opQ.extractLsb' (w * k) w).toNat).foldr
        (· ^^^ ·) 0).setWidth 64
      err := 0, busy := false } ∧
    ∀ i, n ≤ i → s.opQ.getLsbD i = false

/-- R101: for N = 64 and W = 16, RESULT is the XOR of the four look-ups. -/
def Obligations.SixtyFourBySixteenIsFourLookUps : Prop :=
  ∀ s : State, s.tableValid = true → s.tableW = 16 →
    exec (.parityCached 64 16) s = .next { s with
      result := (s.tbl.read (s.opQ.extractLsb' 48 16).toNat ^^^ s.tbl.read (s.opQ.extractLsb' 32 16).toNat ^^^
        s.tbl.read (s.opQ.extractLsb' 16 16).toNat ^^^ s.tbl.read (s.opQ.extractLsb' 0 16).toNat).setWidth 64
      err := 0, busy := false }

/-- R102: where PARITY_CACHED completes without error, RESULT is the parity of x, and the state is the one PARITY
leaves; and it does so for every N, W and x in range. -/
def Obligations.CachedParityAgreesWithTheOracle : Prop :=
  (∀ (s t : State) (n w : Nat), Inv s → exec (.parityCached n w) s = .next t → t.err = 0 →
    t.result.toNat = popcount s.opQ % 2 ∧ exec .parity s = .next t) ∧
  (∀ (s : State) (n w : Nat), Inv s → 1 ≤ w → w ≤ Config.wMax → 1 ≤ n → n ≤ Config.xlen → n % w = 0 →
    s.tableValid = true → s.tableW.toNat = w → s.opQ.toNat < 2 ^ n →
    exec (.parityCached n w) s =
      .next { s with result := BitVec.ofNat 64 (popcount s.opQ % 2), err := 0, busy := false })

/-- R103: every tree of XORs over the S lanes, in any order and of any shape, computes the value of PARITY_CACHED. -/
def Obligations.EveryCombineTreeGivesTheValue : Prop :=
  ∀ (s : State) (n w : Nat) (tree : CombineTree), 1 ≤ w → w ≤ Config.wMax → 1 ≤ n → n ≤ Config.xlen → n % w = 0 →
    s.tableValid = true → s.tableW.toNat = w → s.opQ.toNat < 2 ^ n → tree.lanes.Perm (List.range (n / w)) →
    exec (.parityCached n w) s =
      .next { s with result := (tree.value s.tbl s.opQ w).setWidth 64, err := 0, busy := false }

/-! ### Completion and errors (40_command_cycle.md, 60_exceptions.md) -/

/-- When the command word in CMD_Q decodes to a command, the step in which the unit moves is exec of that command, at
the state less the turn it uses; with no turn set the unit moves as soon as BUSY = 1 (the turns are the model's form of
the interleaving, log entry 7). -/
def Obligations.StepRunsTheDecodedCommand : Prop :=
  ∀ (s : State) (i : Instr), s.err.toNat < 7 → s.busy = true → decode s.cmdQ = .command i →
    (s.turns = [] → step s = exec i s) ∧
    (∀ rest, s.turns = .unit :: rest → step s = exec i { s with turns := rest })

/-- The word that withFetchWord places is the one the next step runs, on the operand of OPERAND (the model's reading
of acceptance, log entry 10). -/
def Obligations.NextStepRunsTheFetchWord : Prop :=
  ∀ (s : State) (i : Instr), i.wellFormed = true →
    step (s.withFetchWord 64 (encode i).toNat) =
      exec i { s with cmdQ := encode i, opQ := s.operand, err := 0, busy := true }

/-- R78, R79: the unit's completion step is enabled exactly when BUSY = 1; it is one step with the outcome of the pure
function Execute of CMD_Q, OP_Q, TABLE_VALID, TABLE_W and TBL. -/
def Obligations.CompletionAppliesExecute : Prop :=
  ∀ s : State,
    (s.busy = false → unitStep s = .next s) ∧
    (s.busy = true →
      unitStep s = .next (s.complete (execute s.cmdQ s.opQ s.tableValid s.tableW s.tbl)) ∧
      (∀ v, execute s.cmdQ s.opQ s.tableValid s.tableW s.tbl = .ok (.result v) →
        unitStep s = .next { s with result := v, err := 0, busy := false }) ∧
      (∀ k, execute s.cmdQ s.opQ s.tableValid s.tableW s.tbl = .err k →
        unitStep s = .next { s with err := errCode k, busy := false }) ∧
      (∀ es w, execute s.cmdQ s.opQ s.tableValid s.tableW s.tbl = .ok (.table es w) → ∃ t : State,
        unitStep s = .next t ∧
        t = { s with tbl := t.tbl, draws := t.draws, tableW := BitVec.ofNat 5 w, tableValid := true, err := 0,
                     busy := false } ∧
        ∀ (i : Nat) (h : i < es.length), t.tbl.read i = es[i]))

/-- Every command's completion leaves OPERAND, OVR, CMD_Q, OP_Q and the host agent as they are and clears BUSY
(40_command_cycle.md R78). -/
def Obligations.CompletionKeepsOperandOvrAndLatches : Prop :=
  ∀ (i : Instr) (s : State), ∃ t : State, exec i s = .next t ∧ t.operand = s.operand ∧ t.ovr = s.ovr ∧
    t.cmdQ = s.cmdQ ∧ t.opQ = s.opQ ∧ t.masters = s.masters ∧ t.turns = s.turns ∧ t.busy = false

/-- R81: a completion with a non-zero code writes STATUS.ERR and STATUS.BUSY and nothing else. -/
def Obligations.FailureWritesOnlyErrAndBusy : Prop :=
  ∀ s t : State, s.busy = true → unitStep s = .next t → t.err ≠ 0 → t = { s with err := t.err, busy := false }

/-- R83: the same command word, operand and table state give the same outcome: the same code, the same RESULT where
one is written, and tables that read alike. -/
def Obligations.CompletionIsDeterministic : Prop :=
  ∀ s r : State, s.busy = true → r.busy = true → s.cmdQ = r.cmdQ → s.opQ = r.opQ → sameTable s r →
    ∃ t u : State, unitStep s = .next t ∧ unitStep r = .next u ∧ t.err = u.err ∧
      ((t.result = s.result ∧ u.result = r.result) ∨ t.result = u.result) ∧
      t.tableValid = u.tableValid ∧ t.tableW = u.tableW ∧
      ∀ x : Word, evalTableRead x t.tableValid t.tableW t.tbl = evalTableRead x u.tableValid u.tableW u.tbl

/-- R114: completion reports exactly one code, the first that applies in the order of the rule; 0 where none does. -/
def Obligations.ErrorPriority : Prop :=
  ∀ s : State, s.busy = true → ∃ t : State, unitStep s = .next t ∧
    (let c := s.cmdQ
     let op := (c.extractLsb' 0 4).toNat
     let w := (c.extractLsb' 8 5).toNat
     let n := (c.extractLsb' 16 7).toNat
     t.err =
      if ∀ r ∈ opcodeRows, c &&& r.mask ≠ r.pat then 1
      else if (op = 4 ∨ op = 5) ∧ ¬ (1 ≤ w ∧ w ≤ Config.wMax) then 2
      else if op = 5 ∧ ¬ (1 ≤ n ∧ n ≤ Config.xlen) then 2
      else if op = 5 ∧ n % w ≠ 0 then 2
      else if (op = 5 ∨ op = 6) ∧ s.tableValid = false then 4
      else if op = 5 ∧ w ≠ s.tableW.toNat then 2
      else if op = 5 ∧ n < Config.xlen ∧ 2 ^ n ≤ s.opQ.toNat then 5
      else if op = 6 ∧ 2 ^ s.tableW.toNat ≤ s.opQ.toNat then 6
      else 0)

/-- R113: no step of any agent leaves a reserved code 7 .. 15 in STATUS.ERR. -/
def Obligations.ReservedCodesAreNeverWritten : Prop :=
  ∀ s t : State, step s = .next t → t.err.toNat < 7

/-- No completion gives NEGATIVE_INPUT, code 3 (60_exceptions.md R109). -/
def Obligations.NegativeInputIsNeverRaised : Prop :=
  ∀ s : State, s.busy = true → ∃ t : State, unitStep s = .next t ∧ t.err ≠ 3

/-- A state whose ERR holds a reserved code is stuck (93_implementation_defined.md; the form of the stop is the
model's choice, log entry 11). -/
def Obligations.ReservedCodeIsStuck : Prop :=
  ∀ s : State, 7 ≤ s.err.toNat → step s = .fault (.reservedErrCode s.err)

/-! ### Invariant -/

/-- Every step keeps the invariant: the table holds parities, TABLE_W is legal or 0, ERR is clear while BUSY, no
reserved code and no NEGATIVE_INPUT is held, the table keeps its form (10_state.md R30, R32, R35; 60_exceptions.md
R109, R113). -/
def Obligations.StepKeepsTheInvariant : Prop :=
  ∀ s t : State, Inv s → step s = .next t → Inv t

/-- The state after reset meets the invariant. -/
def Obligations.ResetMeetsTheInvariant : Prop := Inv State.reset

/-- From a state with the invariant no step stops: there is always a next state. Execute is total (40_command_cycle.md
R79) and the agents are those of R75. That a step with no agent enabled gives a next state is the model's choice (log
entry 7), and so is that a reserved code in ERR is the only stop (log entry 11). -/
def Obligations.NoStepStopsUnderTheInvariant : Prop :=
  ∀ s : State, Inv s → ∃ t : State, step s = .next t

/-- While a command is in flight, no step but its completion and reset changes RESULT, ERR, the table state, CMD_Q or
OP_Q (40_command_cycle.md R84; 70_reset_and_hazards.md R132). -/
def Obligations.NothingShowsBeforeCompletion : Prop :=
  ∀ s : State, s.err.toNat < 7 → s.busy = true → nextIsReset s = false → nextIsCompletion s = false →
    ∃ t : State, step s = .next t ∧ t.busy = true ∧ t.result = s.result ∧ t.err = s.err ∧ sameTable t s ∧
      t.cmdQ = s.cmdQ ∧ t.opQ = s.opQ

/-- RESULT changes only at reset or at a completion without error (10_state.md R25). -/
def Obligations.ResultChangesOnlyAtSuccessOrReset : Prop :=
  ∀ s t : State, step s = .next t → t.result ≠ s.result →
    nextIsReset s = true ∨ (nextIsCompletion s = true ∧ t.err = 0 ∧ t.busy = false)

/-- After at most as many steps as there are turns set, an accepted command completes, with the outcome of its own word,
operand and table, unless a reset comes first; with no reset among the turns it completes (40_command_cycle.md R82,
70_reset_and_hazards.md R128). That the unit moves when the turns run out is the model's form of fairness (log entry
7). -/
def Obligations.AcceptedCommandsComplete : Prop :=
  ∀ s : State, s.err.toNat < 7 → s.busy = true → ∃ (k : Nat) (u t : State), k ≤ s.turns.length ∧
    Host.Core.run Sys2Proof.core k s = .next u ∧ step u = .next t ∧ t.busy = false ∧
    (nextIsReset u = true ∨
      (nextIsCompletion u = true ∧
        t = { u with turns := u.turns.tail }.complete
          (execute s.cmdQ s.opQ s.tableValid s.tableW s.tbl))) ∧
    (Turn.reset ∉ s.turns → nextIsReset u = false)

/-! ### The registers on the bus (10_state.md, 20_memory.md) -/

/-- R23: PARAM is 0x1040: XLEN in bits 7:0, W_MAX in bits 15:8, zeros above; in every state, so no access changes it. -/
def Obligations.ParamIsConstant : Prop :=
  Config.param = 0x1040#64 ∧ (Config.param.extractLsb' 0 8).toNat = Config.xlen ∧
  (Config.param.extractLsb' 8 8).toNat = Config.wMax ∧ Config.param.extractLsb' 16 48 = 0 ∧
  ∀ s : State, portRead 0x00 8 s = ⟨.okay, some 0x1040⟩

/-- R27: the layout of STATUS, its value after reset, and what a write of it changes. -/
def Obligations.StatusLayout : Prop :=
  (∀ s : State, portRead 0x18 8 s = ⟨.okay, some s.statusWord⟩ ∧
    s.statusWord.getLsbD 0 = s.busy ∧ s.statusWord.getLsbD 1 = s.ovr ∧ s.statusWord.extractLsb' 2 2 = 0 ∧
    s.statusWord.extractLsb' 4 4 = s.err ∧ s.statusWord.getLsbD 8 = s.tableValid ∧
    s.statusWord.extractLsb' 9 7 = 0 ∧ s.statusWord.extractLsb' 16 5 = s.tableW ∧
    s.statusWord.extractLsb' 21 43 = 0) ∧
  State.reset.statusWord = 0 ∧
  (∀ (s : State) (v : Word),
    (portWrite 0x18 8 v s).2 = { s with ovr := if v.getLsbD 1 then false else s.ovr })

/-- R46: what a read of each mapped offset returns; it changes no state. -/
def Obligations.ReadsReturnTheRegisters : Prop :=
  ∀ s : State,
    busAccess (.read (Config.unitBase + 0x00) 8) s = (some ⟨.okay, some 0x1040⟩, s) ∧
    busAccess (.read (Config.unitBase + 0x08) 8) s = (some ⟨.okay, some s.operand⟩, s) ∧
    busAccess (.read (Config.unitBase + 0x10) 8) s = (some ⟨.okay, some 0⟩, s) ∧
    busAccess (.read (Config.unitBase + 0x18) 8) s = (some ⟨.okay, some s.statusWord⟩, s) ∧
    busAccess (.read (Config.unitBase + 0x20) 8) s = (some ⟨.okay, some s.result⟩, s)

/-- R47: what a write of each mapped offset does. -/
def Obligations.WritesHaveTheirEffects : Prop :=
  ∀ (s : State) (v : Word),
    busAccess (.write (Config.unitBase + 0x00) 8 v) s = (some okayWrite, s) ∧
    busAccess (.write (Config.unitBase + 0x08) 8 v) s = (some okayWrite, { s with operand := v }) ∧
    (s.busy = false → busAccess (.write (Config.unitBase + 0x10) 8 v) s =
      (some okayWrite, { s with cmdQ := v, opQ := s.operand, err := 0, busy := true })) ∧
    (s.busy = true → busAccess (.write (Config.unitBase + 0x10) 8 v) s =
      (some okayWrite, { s with ovr := true })) ∧
    (v.getLsbD 1 = true → busAccess (.write (Config.unitBase + 0x18) 8 v) s =
      (some okayWrite, { s with ovr := false })) ∧
    (v.getLsbD 1 = false → busAccess (.write (Config.unitBase + 0x18) 8 v) s = (some okayWrite, s)) ∧
    busAccess (.write (Config.unitBase + 0x20) 8 v) s = (some okayWrite, s)

/-- R76: a CMD write while the unit is idle latches the word and OPERAND, clears ERR and sets BUSY, checks nothing and
leaves all else. -/
def Obligations.IdleCmdWriteIsAccepted : Prop :=
  ∀ (s : State) (c : Word), s.busy = false →
    busAccess (.write (Config.unitBase + 0x10) 8 c) s =
      (some okayWrite, { s with cmdQ := c, opQ := s.operand, err := 0, busy := true })

/-- R77: a CMD write while the unit is busy sets OVR, answers OKAY and changes nothing else. -/
def Obligations.BusyCmdWriteIsDropped : Prop :=
  ∀ (s : State) (c : Word), s.busy = true →
    busAccess (.write (Config.unitBase + 0x10) 8 c) s = (some ⟨.okay, none⟩, { s with ovr := true })

/-- R43, R45: inside the window an access that is not 8 bytes at a multiple of 8, or that is at 0x28, 0x30 or 0x38,
of any size, ends with a bus error; it reads and writes no register. -/
def Obligations.OtherAccessesAreBusErrors : Prop :=
  ∀ (s : State) (off n : Nat) (v : BitVec (8 * n)), off < 0x40 → (n ≠ 8 ∨ off % 8 ≠ 0 ∨ off ∈ [0x28, 0x30, 0x38]) →
    busAccess (.read (Config.unitBase + off) n) s = (some ⟨.error, some 0⟩, s) ∧
    busAccess (.write (Config.unitBase + off) n v) s = (some ⟨.error, some 0⟩, s)

/-- A bus error has response ERROR and rdata 0 and changes no state of the unit; the master that gets one records the
fault at that address and performs no access after it (20_memory.md R44). The record of a master is the model's choice
(log entry 8), and so is its list of responses, newest first (log entry 19). -/
def Obligations.BusErrorStopsItsMaster : Prop :=
  ∀ (s : State) (k : Nat) (m : Master) (q : Request) (rest : List HostOp),
    s.masters[k]? = some m → m.fault = none → m.prog = .access q :: rest →
    (busAccess q s).1 = some busError →
    busError = ⟨.error, some 0⟩ ∧
    hostStep k s =
      { s with masters := s.masters.set k (Master.mk rest (busError :: m.responses) (some (.busError q.addr))) } ∧
    hostStep k (hostStep k s) = hostStep k s

/-- R42: an access is to the unit exactly inside the window, at its offset from UNIT_BASE; the unit does not see any
other. -/
def Obligations.OnlyWindowAccessesReachTheUnit : Prop :=
  ∀ (s : State) (a n : Nat) (v : BitVec (8 * n)),
    ((Config.unitBase ≤ a ∧ a < Config.unitBase + 0x40) →
      busAccess (.read a n) s = (some (portRead (a - Config.unitBase) n s), s) ∧
      busAccess (.write a n v) s =
        (some (portWrite (a - Config.unitBase) n (v.setWidth 64) s).1,
          (portWrite (a - Config.unitBase) n (v.setWidth 64) s).2)) ∧
    (¬ (Config.unitBase ≤ a ∧ a < Config.unitBase + 0x40) →
      busAccess (.read a n) s = (none, s) ∧ busAccess (.write a n v) s = (none, s))

/-- R48: writes of PARAM, of RESULT and of the read-only and reserved bits of STATUS are ignored without error. -/
def Obligations.ReadOnlyWritesAreIgnored : Prop :=
  ∀ (s : State) (v : Word),
    portWrite 0x00 8 v s = (⟨.okay, none⟩, s) ∧ portWrite 0x20 8 v s = (⟨.okay, none⟩, s) ∧
    (portWrite 0x18 8 v s).1 = ⟨.okay, none⟩ ∧
    ∃ b : Bool, (portWrite 0x18 8 v s).2 = { s with ovr := b }

/-- R51: reads change nothing, writes of OPERAND are idempotent, writes of CMD are not, and a write of STATUS with bit
1 clears OVR. -/
def Obligations.IdempotenceOfAccesses : Prop :=
  (∀ (s : State) (a n : Nat), (busAccess (.read a n) s).2 = s) ∧
  (∀ (s : State) (v : Word), writeReg .operand v (writeReg .operand v s) = writeReg .operand v s) ∧
  (∀ (s : State) (c : Word), s.busy = false → ∃ t u : State,
    unitStep (writeReg .cmd c s) = .next t ∧ writeReg .cmd c t = t.accept c ∧
    unitStep (writeReg .cmd c t) = .next u ∧
    writeReg .cmd c (writeReg .cmd c s) = { s.accept c with ovr := true }) ∧
  (∀ (s : State) (v : Word), v.getLsbD 1 = true → (writeReg .status v s).ovr = false)

/-- R29: what sets OVR, what clears it, and what leaves it. -/
def Obligations.OvrIsSticky : Prop :=
  (∀ (s : State) (c : Word), s.busy = true → writeReg .cmd c s = { s with ovr := true }) ∧
  (∀ (s : State) (v : Word), v.getLsbD 1 = true → (writeReg .status v s).ovr = false) ∧
  (∀ (s : State) (v : Word), v.getLsbD 1 = false → (writeReg .status v s).ovr = s.ovr) ∧
  (∀ (s : State) (c : Word), s.busy = false → (writeReg .cmd c s).ovr = s.ovr) ∧
  (∀ s t : State, unitStep s = .next t → t.ovr = s.ovr) ∧
  State.reset.ovr = false

/-- R134: the operand of a command is OPERAND at the CMD write that accepted it; a later write of OPERAND, even while
BUSY = 1, leaves the command's completion as it is. -/
def Obligations.OperandIsLatchedAtAcceptance : Prop :=
  (∀ (s : State) (c : Word), s.busy = false → (writeReg .cmd c s).opQ = s.operand) ∧
  (∀ (s : State) (v : Word), s.busy = true → ∃ t : State, unitStep s = .next t ∧
    unitStep (writeReg .operand v s) = .next { t with operand := v })

/-- A memory image holds bits 8k+7 .. 8k of the register at byte k, and gives the register back (20_memory.md R49). -/
def Obligations.MemoryImageIsLittleEndian : Prop :=
  ∀ v : Word, (bytesOfWord v).length = 8 ∧ wordOfBytes (bytesOfWord v) = v ∧
    ∀ k i, k < 8 → i < 8 → ((bytesOfWord v).getD k 0).getLsbD i = v.getLsbD (8 * k + i)

/-- WAIT reads STATUS and ends when BUSY reads 0; until then it stays the master's next operation (30_encoding.md
R74). The host agent is the model's form of a host program (log entry 8), and so is its list of responses, newest first
(log entry 19). -/
def Obligations.WaitEndsWhenBusyReadsZero : Prop :=
  ∀ (s : State) (k : Nat) (m : Master) (rest : List HostOp),
    s.masters[k]? = some m → m.fault = none → m.prog = .wait :: rest →
    hostStep k s =
      { s with
        masters := s.masters.set k
          (Master.mk (if s.busy then .wait :: rest else rest) (⟨.okay, some s.statusWord⟩ :: m.responses) none) }

/-- A host rejects an integer that OPERAND cannot hold before it writes it (60_exceptions.md R109, R111; 90_conflicts.md
C3): no access is performed, the unit keeps its state, and the master stops. Any other integer it writes to OPERAND
whole. The record of the rejection, and that the master stops at it, are the model's choice (log entries 8, 19 and
21). -/
def Obligations.HostRejectsValuesOperandCannotHold : Prop :=
  ∀ (s : State) (k : Nat) (m : Master) (v : Int) (rest : List HostOp),
    s.masters[k]? = some m → m.fault = none → m.prog = .wrOperand v :: rest →
    ((v < 0 ∨ 2 ^ 64 ≤ v) →
      hostStep k s =
        { s with masters := s.masters.set k (Master.mk rest m.responses (some (.rejected v))) } ∧
      hostStep k (hostStep k s) = hostStep k s) ∧
    ((0 ≤ v ∧ v < 2 ^ 64) → ∃ t : State,
      hostStep k s = t ∧ (t.operand.toNat : Int) = v ∧
      t = { s with
        operand := t.operand
        masters := s.masters.set k (Master.mk rest (⟨.okay, none⟩ :: m.responses) none) })

/-- A step of one bus master leaves every other master as it is (the model's host agent, log entry 8). -/
def Obligations.MasterStepsAreSeparate : Prop :=
  ∀ (s : State) (k j : Nat), j ≠ k → (hostStep k s).masters[j]? = s.masters[j]?

/-! ### Reset (70_reset_and_hazards.md) -/

/-- R127: the reset step sets the registers to 0 and PARAM stays; STATUS then reads 0. TBL, CMD_Q and OP_Q are
unspecified and not constrained. That the next turn says when it happens is the model's form (log entry 7). -/
def Obligations.ResetStepClearsTheRegisters : Prop :=
  ∀ (s : State) (rest : List Turn), s.err.toNat < 7 → s.turns = .reset :: rest → ∃ t : State, step s = .next t ∧
    t.operand = 0 ∧ t.result = 0 ∧ t.busy = false ∧ t.ovr = false ∧ t.err = 0 ∧ t.tableValid = false ∧
    t.tableW = 0 ∧ t.statusWord = 0 ∧ portRead 0x00 8 t = ⟨.okay, some 0x1040⟩

/-- The reset step leaves the bus masters as they are and uses one turn. Both are the model's choice: reset does not
reset the masters (log entries 8 and 13), and the turns are the interleaving of the agents (log entry 7). -/
def Obligations.ResetStepKeepsTheHostAgent : Prop :=
  ∀ (s : State) (rest : List Turn), s.err.toNat < 7 → s.turns = .reset :: rest → ∃ t : State, step s = .next t ∧
    t.masters = s.masters ∧ t.turns = rest

/-- R128: a reset while BUSY = 1 aborts the command: no completion step is enabled after it, RESULT and ERR show
nothing of the command, and a table it may have left is not valid. That the next turn says when it happens is the
model's form (log entry 7). -/
def Obligations.ResetAbortsTheCommandInFlight : Prop :=
  ∀ (s : State) (rest : List Turn), s.err.toNat < 7 → s.busy = true → s.turns = .reset :: rest →
    ∃ t : State, step s = .next t ∧ unitStep t = .next t ∧ t.result = 0 ∧ t.err = 0 ∧ t.tableValid = false ∧
      ∀ x : Word, evalTableRead x t.tableValid t.tableW t.tbl = .err .tableInvalid

/-- After reset the registers the spec gives a value hold it, the unit is idle, and the next CMD write is accepted
(10_state.md section 2; 70_reset_and_hazards.md R129). -/
def Obligations.ResetStateIsIdle : Prop :=
  State.reset.operand = 0 ∧ State.reset.result = 0 ∧ State.reset.statusWord = 0 ∧ State.reset.tableValid = false ∧
  ∀ c : Word, (writeReg .cmd c State.reset).busy = true ∧ (writeReg .cmd c State.reset).cmdQ = c ∧
    (writeReg .cmd c State.reset).opQ = 0
end

