-- ==== Sys2Proof/Laws/State.lean ====
section
/-! SUPPORT. One lemma per field per update of State, true by rfl: what each shared operation leaves in each field. -/

namespace Sys2Proof.Machine

section
variable (s : State)

/-! ### accept -/

@[simp] theorem State.accept_operand (c : Word) : (s.accept c).operand = s.operand := rfl
@[simp] theorem State.accept_result (c : Word) : (s.accept c).result = s.result := rfl
@[simp] theorem State.accept_busy (c : Word) : (s.accept c).busy = true := rfl
@[simp] theorem State.accept_ovr (c : Word) : (s.accept c).ovr = s.ovr := rfl
@[simp] theorem State.accept_err (c : Word) : (s.accept c).err = 0 := rfl
@[simp] theorem State.accept_tableValid (c : Word) : (s.accept c).tableValid = s.tableValid := rfl
@[simp] theorem State.accept_tableW (c : Word) : (s.accept c).tableW = s.tableW := rfl
@[simp] theorem State.accept_tbl (c : Word) : (s.accept c).tbl = s.tbl := rfl
@[simp] theorem State.accept_cmdQ (c : Word) : (s.accept c).cmdQ = c := rfl
@[simp] theorem State.accept_opQ (c : Word) : (s.accept c).opQ = s.operand := rfl
@[simp] theorem State.accept_draws (c : Word) : (s.accept c).draws = s.draws := rfl
@[simp] theorem State.accept_masters (c : Word) : (s.accept c).masters = s.masters := rfl
@[simp] theorem State.accept_turns (c : Word) : (s.accept c).turns = s.turns := rfl

/-! ### overrun -/

@[simp] theorem State.overrun_operand : s.overrun.operand = s.operand := rfl
@[simp] theorem State.overrun_result : s.overrun.result = s.result := rfl
@[simp] theorem State.overrun_busy : s.overrun.busy = s.busy := rfl
@[simp] theorem State.overrun_ovr : s.overrun.ovr = true := rfl
@[simp] theorem State.overrun_err : s.overrun.err = s.err := rfl
@[simp] theorem State.overrun_tableValid : s.overrun.tableValid = s.tableValid := rfl
@[simp] theorem State.overrun_tableW : s.overrun.tableW = s.tableW := rfl
@[simp] theorem State.overrun_tbl : s.overrun.tbl = s.tbl := rfl
@[simp] theorem State.overrun_cmdQ : s.overrun.cmdQ = s.cmdQ := rfl
@[simp] theorem State.overrun_opQ : s.overrun.opQ = s.opQ := rfl
@[simp] theorem State.overrun_draws : s.overrun.draws = s.draws := rfl
@[simp] theorem State.overrun_masters : s.overrun.masters = s.masters := rfl
@[simp] theorem State.overrun_turns : s.overrun.turns = s.turns := rfl

/-! ### succeedResult -/

@[simp] theorem State.succeedResult_operand (v : Word) : (s.succeedResult v).operand = s.operand := rfl
@[simp] theorem State.succeedResult_result (v : Word) : (s.succeedResult v).result = v := rfl
@[simp] theorem State.succeedResult_busy (v : Word) : (s.succeedResult v).busy = false := rfl
@[simp] theorem State.succeedResult_ovr (v : Word) : (s.succeedResult v).ovr = s.ovr := rfl
@[simp] theorem State.succeedResult_err (v : Word) : (s.succeedResult v).err = 0 := rfl
@[simp] theorem State.succeedResult_tableValid (v : Word) : (s.succeedResult v).tableValid = s.tableValid := rfl
@[simp] theorem State.succeedResult_tableW (v : Word) : (s.succeedResult v).tableW = s.tableW := rfl
@[simp] theorem State.succeedResult_tbl (v : Word) : (s.succeedResult v).tbl = s.tbl := rfl
@[simp] theorem State.succeedResult_cmdQ (v : Word) : (s.succeedResult v).cmdQ = s.cmdQ := rfl
@[simp] theorem State.succeedResult_opQ (v : Word) : (s.succeedResult v).opQ = s.opQ := rfl
@[simp] theorem State.succeedResult_draws (v : Word) : (s.succeedResult v).draws = s.draws := rfl
@[simp] theorem State.succeedResult_masters (v : Word) : (s.succeedResult v).masters = s.masters := rfl
@[simp] theorem State.succeedResult_turns (v : Word) : (s.succeedResult v).turns = s.turns := rfl

/-! ### succeedTable -/

@[simp] theorem State.succeedTable_operand (es : List Bit) (w : Nat) : (s.succeedTable es w).operand = s.operand := rfl
@[simp] theorem State.succeedTable_result (es : List Bit) (w : Nat) : (s.succeedTable es w).result = s.result := rfl
@[simp] theorem State.succeedTable_busy (es : List Bit) (w : Nat) : (s.succeedTable es w).busy = false := rfl
@[simp] theorem State.succeedTable_ovr (es : List Bit) (w : Nat) : (s.succeedTable es w).ovr = s.ovr := rfl
@[simp] theorem State.succeedTable_err (es : List Bit) (w : Nat) : (s.succeedTable es w).err = 0 := rfl
@[simp] theorem State.succeedTable_tableValid (es : List Bit) (w : Nat) : (s.succeedTable es w).tableValid = true := rfl
@[simp] theorem State.succeedTable_tableW (es : List Bit) (w : Nat) : (s.succeedTable es w).tableW = BitVec.ofNat 5 w := rfl
@[simp] theorem State.succeedTable_tbl (es : List Bit) (w : Nat) : (s.succeedTable es w).tbl = { entries := es, draw := s.draws } := rfl
@[simp] theorem State.succeedTable_cmdQ (es : List Bit) (w : Nat) : (s.succeedTable es w).cmdQ = s.cmdQ := rfl
@[simp] theorem State.succeedTable_opQ (es : List Bit) (w : Nat) : (s.succeedTable es w).opQ = s.opQ := rfl
@[simp] theorem State.succeedTable_draws (es : List Bit) (w : Nat) : (s.succeedTable es w).draws = s.draws + 1 := rfl
@[simp] theorem State.succeedTable_masters (es : List Bit) (w : Nat) : (s.succeedTable es w).masters = s.masters := rfl
@[simp] theorem State.succeedTable_turns (es : List Bit) (w : Nat) : (s.succeedTable es w).turns = s.turns := rfl

/-! ### failWith -/

@[simp] theorem State.failWith_operand (k : ErrKind) : (s.failWith k).operand = s.operand := rfl
@[simp] theorem State.failWith_result (k : ErrKind) : (s.failWith k).result = s.result := rfl
@[simp] theorem State.failWith_busy (k : ErrKind) : (s.failWith k).busy = false := rfl
@[simp] theorem State.failWith_ovr (k : ErrKind) : (s.failWith k).ovr = s.ovr := rfl
@[simp] theorem State.failWith_err (k : ErrKind) : (s.failWith k).err = errCode k := rfl
@[simp] theorem State.failWith_tableValid (k : ErrKind) : (s.failWith k).tableValid = s.tableValid := rfl
@[simp] theorem State.failWith_tableW (k : ErrKind) : (s.failWith k).tableW = s.tableW := rfl
@[simp] theorem State.failWith_tbl (k : ErrKind) : (s.failWith k).tbl = s.tbl := rfl
@[simp] theorem State.failWith_cmdQ (k : ErrKind) : (s.failWith k).cmdQ = s.cmdQ := rfl
@[simp] theorem State.failWith_opQ (k : ErrKind) : (s.failWith k).opQ = s.opQ := rfl
@[simp] theorem State.failWith_draws (k : ErrKind) : (s.failWith k).draws = s.draws := rfl
@[simp] theorem State.failWith_masters (k : ErrKind) : (s.failWith k).masters = s.masters := rfl
@[simp] theorem State.failWith_turns (k : ErrKind) : (s.failWith k).turns = s.turns := rfl

/-! ### resetUnit -/

@[simp] theorem State.resetUnit_operand : s.resetUnit.operand = 0 := rfl
@[simp] theorem State.resetUnit_result : s.resetUnit.result = 0 := rfl
@[simp] theorem State.resetUnit_busy : s.resetUnit.busy = false := rfl
@[simp] theorem State.resetUnit_ovr : s.resetUnit.ovr = false := rfl
@[simp] theorem State.resetUnit_err : s.resetUnit.err = 0 := rfl
@[simp] theorem State.resetUnit_tableValid : s.resetUnit.tableValid = false := rfl
@[simp] theorem State.resetUnit_tableW : s.resetUnit.tableW = 0 := rfl
@[simp] theorem State.resetUnit_tbl : s.resetUnit.tbl = { entries := [], draw := s.draws } := rfl
@[simp] theorem State.resetUnit_cmdQ : s.resetUnit.cmdQ = Config.freeCmdQ s.draws := rfl
@[simp] theorem State.resetUnit_opQ : s.resetUnit.opQ = Config.freeOpQ s.draws := rfl
@[simp] theorem State.resetUnit_draws : s.resetUnit.draws = s.draws + 1 := rfl
@[simp] theorem State.resetUnit_masters : s.resetUnit.masters = s.masters := rfl
@[simp] theorem State.resetUnit_turns : s.resetUnit.turns = s.turns := rfl

/-! ### setOperand -/

@[simp] theorem State.setOperand_operand (v : Word) : (s.setOperand v).operand = v := rfl
@[simp] theorem State.setOperand_result (v : Word) : (s.setOperand v).result = s.result := rfl
@[simp] theorem State.setOperand_busy (v : Word) : (s.setOperand v).busy = s.busy := rfl
@[simp] theorem State.setOperand_ovr (v : Word) : (s.setOperand v).ovr = s.ovr := rfl
@[simp] theorem State.setOperand_err (v : Word) : (s.setOperand v).err = s.err := rfl
@[simp] theorem State.setOperand_tableValid (v : Word) : (s.setOperand v).tableValid = s.tableValid := rfl
@[simp] theorem State.setOperand_tableW (v : Word) : (s.setOperand v).tableW = s.tableW := rfl
@[simp] theorem State.setOperand_tbl (v : Word) : (s.setOperand v).tbl = s.tbl := rfl
@[simp] theorem State.setOperand_cmdQ (v : Word) : (s.setOperand v).cmdQ = s.cmdQ := rfl
@[simp] theorem State.setOperand_opQ (v : Word) : (s.setOperand v).opQ = s.opQ := rfl
@[simp] theorem State.setOperand_draws (v : Word) : (s.setOperand v).draws = s.draws := rfl
@[simp] theorem State.setOperand_masters (v : Word) : (s.setOperand v).masters = s.masters := rfl
@[simp] theorem State.setOperand_turns (v : Word) : (s.setOperand v).turns = s.turns := rfl

/-! ### clearOvr -/

@[simp] theorem State.clearOvr_operand : s.clearOvr.operand = s.operand := rfl
@[simp] theorem State.clearOvr_result : s.clearOvr.result = s.result := rfl
@[simp] theorem State.clearOvr_busy : s.clearOvr.busy = s.busy := rfl
@[simp] theorem State.clearOvr_ovr : s.clearOvr.ovr = false := rfl
@[simp] theorem State.clearOvr_err : s.clearOvr.err = s.err := rfl
@[simp] theorem State.clearOvr_tableValid : s.clearOvr.tableValid = s.tableValid := rfl
@[simp] theorem State.clearOvr_tableW : s.clearOvr.tableW = s.tableW := rfl
@[simp] theorem State.clearOvr_tbl : s.clearOvr.tbl = s.tbl := rfl
@[simp] theorem State.clearOvr_cmdQ : s.clearOvr.cmdQ = s.cmdQ := rfl
@[simp] theorem State.clearOvr_opQ : s.clearOvr.opQ = s.opQ := rfl
@[simp] theorem State.clearOvr_draws : s.clearOvr.draws = s.draws := rfl
@[simp] theorem State.clearOvr_masters : s.clearOvr.masters = s.masters := rfl
@[simp] theorem State.clearOvr_turns : s.clearOvr.turns = s.turns := rfl

end

end Sys2Proof.Machine
end

