-- ==== Sys2Proof/Laws/Ops.lean ====
section
/-! SUPPORT. For each shared operation one lemma that says everything it can do, to be cited in place of unfolding
it. -/

namespace Sys2Proof.Machine

/-! ### Completion -/

@[simp] theorem complete_ok_result (v : Word) (s : State) :
    s.complete (.ok (.result v)) = s.succeedResult v := rfl

@[simp] theorem complete_ok_table (es : List Bit) (w : Nat) (s : State) :
    s.complete (.ok (.table es w)) = s.succeedTable es w := rfl

@[simp] theorem complete_err (k : ErrKind) (s : State) : s.complete (.err k) = s.failWith k := rfl

/-- A completion writes RESULT, or a table, or an error code; the outcome says which. -/
theorem complete_cases (out : ExecResult) (s : State) :
    (∃ v, out = .ok (.result v) ∧ s.complete out = s.succeedResult v) ∨
    (∃ es w, out = .ok (.table es w) ∧ s.complete out = s.succeedTable es w) ∨
    (∃ k, out = .err k ∧ s.complete out = s.failWith k) := by
  rcases out with (v | ⟨es, w⟩) | k
  · exact .inl ⟨v, rfl, rfl⟩
  · exact .inr (.inl ⟨es, w, rfl, rfl⟩)
  · exact .inr (.inr ⟨k, rfl, rfl⟩)

@[simp] theorem complete_busy (out : ExecResult) (s : State) : (s.complete out).busy = false := by
  obtain ⟨_, _, h⟩ | ⟨_, _, _, h⟩ | ⟨_, _, h⟩ := complete_cases out s <;> rw [h] <;> rfl

@[simp] theorem complete_operand (out : ExecResult) (s : State) : (s.complete out).operand = s.operand := by
  obtain ⟨_, _, h⟩ | ⟨_, _, _, h⟩ | ⟨_, _, h⟩ := complete_cases out s <;> rw [h] <;> rfl

@[simp] theorem complete_ovr (out : ExecResult) (s : State) : (s.complete out).ovr = s.ovr := by
  obtain ⟨_, _, h⟩ | ⟨_, _, _, h⟩ | ⟨_, _, h⟩ := complete_cases out s <;> rw [h] <;> rfl

@[simp] theorem complete_cmdQ (out : ExecResult) (s : State) : (s.complete out).cmdQ = s.cmdQ := by
  obtain ⟨_, _, h⟩ | ⟨_, _, _, h⟩ | ⟨_, _, h⟩ := complete_cases out s <;> rw [h] <;> rfl

@[simp] theorem complete_opQ (out : ExecResult) (s : State) : (s.complete out).opQ = s.opQ := by
  obtain ⟨_, _, h⟩ | ⟨_, _, _, h⟩ | ⟨_, _, h⟩ := complete_cases out s <;> rw [h] <;> rfl

@[simp] theorem complete_masters (out : ExecResult) (s : State) : (s.complete out).masters = s.masters := by
  obtain ⟨_, _, h⟩ | ⟨_, _, _, h⟩ | ⟨_, _, h⟩ := complete_cases out s <;> rw [h] <;> rfl

@[simp] theorem complete_turns (out : ExecResult) (s : State) : (s.complete out).turns = s.turns := by
  obtain ⟨_, _, h⟩ | ⟨_, _, _, h⟩ | ⟨_, _, h⟩ := complete_cases out s <;> rw [h] <;> rfl

/-! ### The registers behind their offsets -/

@[simp] theorem regAt_offset (r : Reg) : regAt r.offset = some r := by cases r <;> rfl

@[simp] theorem legalReg_offset (r : Reg) : legalReg r.offset 8 = some r := by cases r <;> rfl

/-- A legal access reaches a register exactly at its offset, with 8 bytes. -/
theorem legalReg_eq_some (off n : Nat) (r : Reg) : legalReg off n = some r ↔ n = 8 ∧ off = r.offset := by
  constructor
  · intro h
    unfold legalReg at h
    split at h
    · rename_i hn
      refine ⟨hn.1, ?_⟩
      unfold regAt at h
      split at h <;> simp_all [Reg.offset]
      all_goals (subst h; rfl)
    · cases h
  · rintro ⟨rfl, rfl⟩
    exact legalReg_offset r

@[simp] theorem portRead_offset (r : Reg) (s : State) : portRead r.offset 8 s = okayRead (readReg r s) := by
  simp [portRead]

@[simp] theorem portWrite_offset (r : Reg) (v : Word) (s : State) :
    portWrite r.offset 8 v s = (okayWrite, writeReg r v s) := by
  simp [portWrite]

/-- A write of a register changes nothing, or OPERAND, or it accepts, overruns, or clears OVR. -/
theorem writeReg_cases (r : Reg) (v : Word) (s : State) :
    writeReg r v s = s ∨ (r = .operand ∧ writeReg r v s = s.setOperand v) ∨
    (r = .cmd ∧ s.busy = false ∧ writeReg r v s = s.accept v) ∨
    (r = .cmd ∧ s.busy = true ∧ writeReg r v s = s.overrun) ∨
    (r = .status ∧ clearsOvr v = true ∧ writeReg r v s = s.clearOvr) := by
  cases r
  · exact .inl rfl
  · exact .inr (.inl ⟨rfl, rfl⟩)
  · cases hb : s.busy <;> simp [writeReg, hb]
  · cases hv : clearsOvr v <;> simp [writeReg, hv]
  · exact .inl rfl

/-- A write at an offset writes the register of a legal access, or is a bus error that changes nothing. -/
theorem portWrite_cases (off n : Nat) (v : Word) (s : State) :
    (∃ r, legalReg off n = some r ∧ portWrite off n v s = (okayWrite, writeReg r v s)) ∨
    (legalReg off n = none ∧ portWrite off n v s = (busError, s)) := by
  unfold portWrite
  split <;> simp_all

/-- A read at an offset reads the register of a legal access, or is a bus error. -/
theorem portRead_cases (off n : Nat) (s : State) :
    (∃ r, legalReg off n = some r ∧ portRead off n s = okayRead (readReg r s)) ∨
    (legalReg off n = none ∧ portRead off n s = busError) := by
  unfold portRead
  split <;> simp_all

/-! ### The bus -/

theorem inWindow_base_add (off : Nat) (h : off < 0x40) : inWindow (Config.unitBase + off) = true := by
  exact decide_eq_true ⟨Nat.le_add_right _ _, Nat.add_lt_add_left h _⟩

@[simp] theorem offsetOf_base_add (off : Nat) : offsetOf (Config.unitBase + off) = off := by
  simp [offsetOf]

/-- A read inside the window is a read of the port at its offset. -/
theorem busAccess_read (off n : Nat) (s : State) (h : off < 0x40) :
    busAccess (.read (Config.unitBase + off) n) s = (some (portRead off n s), s) := by
  simp [busAccess, inWindow_base_add off h]

/-- A write inside the window is a write of the port at its offset. -/
theorem busAccess_write (off n : Nat) (v : BitVec (8 * n)) (s : State) (h : off < 0x40) :
    busAccess (.write (Config.unitBase + off) n v) s =
      (some (portWrite off n (v.setWidth 64) s).1, (portWrite off n (v.setWidth 64) s).2) := by
  simp [busAccess, inWindow_base_add off h]

/-- UNIT_BASE is a multiple of 0x40 (00_scope.md R9). -/
theorem unitBase_aligned : Config.unitBase % 0x40 = 0 := by
  simp [Config.unitBase, Config.windowBytes]

/-- After an access the unit's state is as a register write leaves it, or unchanged. -/
theorem busAccess_state (q : Request) (s : State) :
    (busAccess q s).2 = s ∨ ∃ r v, (busAccess q s).2 = writeReg r v s := by
  cases q with
  | read a n => left; simp only [busAccess]; split <;> rfl
  | write a n v =>
    simp only [busAccess]
    split
    · obtain ⟨r, _, h⟩ | ⟨_, h⟩ := portWrite_cases (offsetOf a) n (v.setWidth 64) s
      · exact .inr ⟨r, _, by rw [h]⟩
      · exact .inl (by rw [h])
    · exact .inl rfl

/-! ### The agents -/

/-- Every command completes, with the outcome its pure function gives. -/
theorem exec_eq_complete (i : Instr) (s : State) :
    ∃ out, exec i s = .next (s.complete out) := by
  cases i <;> exact ⟨_, rfl⟩

/-- The unit's step is a completion with some outcome where it is enabled. -/
theorem unitStep_cases (s : State) :
    (s.busy = false ∧ unitStep s = .next s) ∨
    (s.busy = true ∧ ∃ out, unitStep s = .next (s.complete out)) := by
  cases hb : s.busy
  · exact .inl ⟨rfl, by simp [unitStep, hb]⟩
  · refine .inr ⟨rfl, ?_⟩
    simp only [unitStep, hb, if_true]
    cases hd : decode s.cmdQ with
    | illegal why => exact ⟨.err .illegalCommand, rfl⟩
    | command i => exact exec_eq_complete i s

/-- The one operation a host can reject is the write of a value OPERAND cannot hold. -/
theorem rejection_cases (op : HostOp) :
    op.rejection = none ∨ ∃ v, op = .wrOperand v ∧ fitsOperand v = false ∧ op.rejection = some (.rejected v) := by
  cases op with
  | wrOperand v => cases h : fitsOperand v <;> simp [HostOp.rejection, h]
  | rd r => exact .inl rfl
  | wr r v => exact .inl rfl
  | wait => exact .inl rfl
  | access q => exact .inl rfl

/-- The write of a value OPERAND can hold sets OPERAND. -/
@[simp] theorem perform_wrOperand (v : Int) (s : State) :
    (HostOp.wrOperand v).perform s = (some okayWrite, s.setOperand (BitVec.ofInt 64 v)) := by
  simp [HostOp.perform, writeReg]

/-- What an operation of a host does to the unit: nothing, or a register write. -/
theorem perform_state (op : HostOp) (s : State) :
    (op.perform s).2 = s ∨ ∃ r v, (op.perform s).2 = writeReg r v s := by
  cases op with
  | rd r => exact .inl rfl
  | wr r v => exact .inr ⟨r, v, by simp [HostOp.perform]⟩
  | wrOperand v => exact .inr ⟨.operand, _, by rw [perform_wrOperand]; rfl⟩
  | wait => exact .inl rfl
  | access q => exact busAccess_state q s

/-- A step of a bus master changes nothing, or rejects a value and stops that master, or performs one operation and
updates that master. -/
theorem hostStep_cases (k : Nat) (s : State) :
    hostStep k s = s ∨
    (∃ m op rest f, s.masters[k]? = some m ∧ m.fault = none ∧ m.prog = op :: rest ∧ op.rejection = some f ∧
      hostStep k s = { s with masters := s.masters.set k (m.reject f rest) }) ∨
    ∃ m op rest, s.masters[k]? = some m ∧ m.fault = none ∧ m.prog = op :: rest ∧ op.rejection = none ∧
      hostStep k s = { (op.perform s).2 with masters := s.masters.set k (m.afterOp op rest (op.perform s).1) } := by
  unfold hostStep
  split
  · exact .inl rfl
  · rename_i m hm
    split
    · exact .inl rfl
    · exact .inl rfl
    · rename_i op rest hf hp
      split
      · rename_i f hr
        exact .inr (.inl ⟨m, op, rest, f, hm, hf, hp, hr, rfl⟩)
      · rename_i hr
        exact .inr (.inr ⟨m, op, rest, hm, hf, hp, hr, rfl⟩)

/-- Apart from the masters, a step of a bus master leaves the state as it is or as one register write leaves it. -/
theorem hostStep_state (k : Nat) (s : State) :
    (∃ ms, hostStep k s = { s with masters := ms }) ∨
    ∃ r v ms, hostStep k s = { writeReg r v s with masters := ms } := by
  obtain h | ⟨_, _, _, _, _, _, _, _, h⟩ | ⟨_, op, _, _, _, _, _, h⟩ := hostStep_cases k s
  · exact .inl ⟨s.masters, h⟩
  · exact .inl ⟨_, h⟩
  · obtain e | ⟨r, v, e⟩ := perform_state op s <;> rw [e] at h
    · exact .inl ⟨_, h⟩
    · exact .inr ⟨r, v, _, h⟩

/-- Everything a step can do: it stops on a reserved ERR code; else it is the turn's agent's step, or with no turn
set the unit's, a master's, or none. -/
theorem step_cases (s : State) :
    (errReserved s.err = true ∧ step s = .fault (.reservedErrCode s.err)) ∨
    (errReserved s.err = false ∧
      ((∃ k rest, s.turns = .host k :: rest ∧ step s = .next (hostStep k { s with turns := rest })) ∨
       (∃ rest, s.turns = .unit :: rest ∧ step s = unitStep { s with turns := rest }) ∨
       (∃ rest, s.turns = .reset :: rest ∧ step s = .next ({ s with turns := rest } : State).resetUnit) ∨
       (s.turns = [] ∧ s.busy = true ∧ step s = unitStep s) ∨
       (∃ k, s.turns = [] ∧ s.busy = false ∧ step s = .next (hostStep k s)) ∨
       (s.turns = [] ∧ s.busy = false ∧ step s = .next s))) := by
  cases he : errReserved s.err
  · refine .inr ⟨rfl, ?_⟩
    cases ht : s.turns with
    | nil =>
      cases hb : s.busy
      · cases hm : s.masters.findIdx? Master.canStep with
        | none => simp [step, systemStep, idleTurn, he, ht, hb, hm]
        | some k =>
          refine .inr (.inr (.inr (.inr (.inl ⟨k, rfl, rfl, ?_⟩))))
          simp [step, systemStep, idleTurn, he, ht, hb, hm]
      · simp [step, systemStep, idleTurn, he, ht, hb]
    | cons t rest => cases t <;> simp [step, systemStep, takeTurn, he, ht]
  · exact .inl ⟨rfl, by simp [step, systemStep, he]⟩

/-! ### The table keeps its form -/

@[simp] theorem builtEntries_length (w : Nat) : (builtEntries w).length = 2 ^ w := by
  simp [builtEntries]

/-- A table with no specified entry has the form. -/
theorem wf_unspecified (d : Nat) : ({ entries := [], draw := d } : Table).wf = true := by
  simp [Table.wf]

/-- A table that BUILD_TABLE writes has the form. -/
theorem wf_built (w d : Nat) (h : legalW w = true) : ({ entries := builtEntries w, draw := d } : Table).wf = true := by
  simp only [legalW, decide_eq_true_eq] at h
  simpa [Table.wf] using Nat.pow_le_pow_right (by decide) h.2

/-- The table after reset has the form. -/
theorem wf_reset : State.reset.tbl.wf = true := wf_unspecified 0

/-- The reset step keeps the form. -/
theorem wf_resetUnit (s : State) : s.resetUnit.tbl.wf = true := wf_unspecified s.draws

/-- Every completion keeps the form of the table. -/
theorem wf_exec (i : Instr) (s t : State) (hs : s.tbl.wf = true) (h : exec i s = .next t) : t.tbl.wf = true := by
  cases i with
  | buildTable w =>
    simp only [exec, execBuildTable, evalBuildTable, Host.Outcome.next.injEq] at h
    subst h
    split
    · rename_i hw
      exact wf_built w _ hw
    · exact hs
  | countBits => cases h; exact hs
  | parity => cases h; exact hs
  | parityFast => cases h; exact hs
  | tableRead =>
    simp only [exec, execTableRead, evalTableRead, Host.Outcome.next.injEq] at h
    subst h
    split <;> [exact hs; (split <;> exact hs)]
  | parityCached n w =>
    simp only [exec, execParityCached, evalParityCached, Host.Outcome.next.injEq] at h
    subst h
    split_ifs <;> exact hs

end Sys2Proof.Machine
end

