-- ==== Sys2Proof/Laws/PerInstr.lean ====
section
/-! SUPPORT. A statement made for every command, one lemma per constructor: the command word of a well-formed command
is a word of its row of the opcode table (30_encoding.md R67, R68). -/

namespace Sys2Proof.Laws.EncodesToRow

/-- The command word is under its row's mask the row's match. -/
def Statement (i : Instr) : Prop :=
  i.wellFormed = true → ∃ r ∈ opcodeRows, r.mnemonic = i.mnemonic ∧ r.holds (encode i) = true

theorem buildTable_words : ∀ w : Fin 32, (opcodeRows[3]).holds (enc 4 w.val 0) = true := by decide +kernel

theorem parityCached_words : ∀ n : Fin 128, ∀ w : Fin 32, (opcodeRows[4]).holds (enc 5 w.val n.val) = true := by
  decide +kernel

theorem countBits : Statement .countBits := fun _ => ⟨opcodeRows[0], by decide, rfl, by decide⟩

theorem parity : Statement .parity := fun _ => ⟨opcodeRows[1], by decide, rfl, by decide⟩

theorem parityFast : Statement .parityFast := fun _ => ⟨opcodeRows[2], by decide, rfl, by decide⟩

theorem buildTable (w : Nat) : Statement (.buildTable w) := fun h =>
  ⟨opcodeRows[3], by decide, rfl,
    buildTable_words ⟨w, Nat.lt_succ_of_le (of_decide_eq_true h)⟩⟩

theorem parityCached (n w : Nat) : Statement (.parityCached n w) := fun h => by
  simp only [Instr.wellFormed, fitsN, fitsW, Bool.and_eq_true, decide_eq_true_eq] at h
  exact ⟨opcodeRows[4], by decide, rfl,
    parityCached_words ⟨n, Nat.lt_succ_of_le h.1⟩ ⟨w, Nat.lt_succ_of_le h.2⟩⟩

theorem tableRead : Statement .tableRead := fun _ => ⟨opcodeRows[5], by decide, rfl, by decide⟩

end Sys2Proof.Laws.EncodesToRow
end

