-- ==== Sys2Proof/Laws/Run.lean ====
section
/-! SUPPORT. Runs of the machine step by step: what one more step does, and the induction over a run. -/

namespace Sys2Proof.Machine

theorem run_next_of {M : Host.Core} {k : Nat} {s t : M.State} (h : M.step s = .next t) :
    M.run (k + 1) s = M.run k t := by
  simp only [Host.Core.run, h]

theorem run_fault_of {M : Host.Core} {k : Nat} {s : M.State} {r : M.Fault} (h : M.step s = .fault r) :
    M.run (k + 1) s = .fault r := by
  simp only [Host.Core.run, h]

theorem run_refused_of {M : Host.Core} {k : Nat} {s : M.State} {r : M.Refusal} (h : M.step s = .refused r) :
    M.run (k + 1) s = .refused r := by
  simp only [Host.Core.run, h]

/-- One more step of a run. -/
theorem run_next {k : Nat} {s t : State} (h : step s = .next t) :
    Host.Core.run Sys2Proof.core (k + 1) s = Host.Core.run Sys2Proof.core k t :=
  run_next_of (M := Sys2Proof.core) h

/-- A run of k + 1 steps that ends in a state takes a first step. -/
theorem run_succ_inv {k : Nat} {s t : State} (h : Host.Core.run Sys2Proof.core (k + 1) s = .next t) :
    ∃ s', step s = .next s' ∧ Host.Core.run Sys2Proof.core k s' = .next t := by
  generalize hs : step s = o
  cases o with
  | next s' => exact ⟨s', rfl, (run_next hs).symm.trans h⟩
  | fault r =>
    have e := (run_fault_of (M := Sys2Proof.core) (k := k) hs).symm.trans h
    cases e
  | refused r =>
    have e := (run_refused_of (M := Sys2Proof.core) (k := k) hs).symm.trans h
    cases e

/-- What every step keeps, every run keeps. -/
theorem run_keeps {P : State → Prop} (hP : ∀ s t, P s → step s = .next t → P t) :
    ∀ (k : Nat) (s t : State), P s → Host.Core.run Sys2Proof.core k s = .next t → P t
  | 0, s, t, hs, h => by
    have e : s = t := Host.Outcome.next.inj h
    exact e ▸ hs
  | k + 1, s, t, hs, h => by
    obtain ⟨s', h1, h2⟩ := run_succ_inv h
    exact run_keeps hP k s' t (hP s s' hs h1) h2

end Sys2Proof.Machine
end

