-- ==== Sys2Proof/Laws/Table.lean ====
section
/-! SUPPORT. What the bit scan of PARITY computes and what a built table reads as: the popcount of a value peels off
its low bit, so the loop of 41_bit_count_parity.md R91 accumulates its parity. -/

namespace Sys2Proof.Machine

open Sys2Proof.Safety

/-- The number of 1 bits among the low `k` bits. -/
def lowCount (k : Nat) (v : Word) : Nat := (List.range k).countP fun i => v.getLsbD i

theorem popcount_eq_lowCount (v : Word) : popcount v = lowCount 64 v := rfl

@[simp] theorem lowCount_zero_word (k : Nat) : lowCount k 0#64 = 0 := by simp [lowCount]

theorem popcount_le (v : Word) : popcount v ≤ 64 := by
  have h := List.countP_le_length (p := fun i => v.getLsbD i) (l := List.range 64)
  simpa [popcount] using h

/-- The low bit as a number. -/
theorem toNat_and_one (v : Word) : (v &&& 1).toNat = if v.getLsbD 0 then 1 else 0 := by
  have h : v &&& 1 = if v.getLsbD 0 then 1 else 0 := by
    ext i hi
    rw [BitVec.getElem_and]
    by_cases hi0 : i = 0
    · subst hi0
      rw [show v[0] = v.getLsbD 0 from rfl]
      cases hv : v.getLsbD 0 <;> simp
    · cases hv : v.getLsbD 0 <;> simp [BitVec.getElem_one, hi0]
  rw [h]
  split <;> rfl

/-- Counting peels off the low bit. -/
theorem lowCount_succ (k : Nat) (v : Word) : lowCount (k + 1) v = (v &&& 1).toNat + lowCount k (v >>> 1) := by
  unfold lowCount
  rw [List.range_succ_eq_map, List.countP_cons, List.countP_map, toNat_and_one, Nat.add_comm]
  congr 1
  apply List.countP_congr
  intro i _
  simp [Nat.add_comm]

/-- One round of the scan adds the low bit to the parity. -/
theorem toNat_xor_low (v : Word) (p : Bit) :
    (p ^^^ (v &&& 1).setWidth 1).toNat = (p.toNat + (v &&& 1).toNat) % 2 := by
  rw [BitVec.toNat_xor, BitVec.toNat_setWidth, toNat_and_one]
  have hp : p.toNat = 0 ∨ p.toNat = 1 := by have := p.isLt; omega
  rcases hp with e | e <;> rw [e] <;> split <;> rfl

/-- The scan of a value of at most `k` bits accumulates its parity. -/
theorem parityLoop_eq : ∀ (k : Nat) (v : Word) (p : Bit), v.toNat < 2 ^ k →
    parityLoop k v p = BitVec.ofNat 1 (p.toNat + lowCount k v)
  | 0, v, p, _ => by simp [parityLoop, lowCount]
  | k + 1, v, p, h => by
    unfold parityLoop
    split
    · rename_i hv
      simp [hv]
    · have hs : (v >>> 1).toNat < 2 ^ k := by
        simp only [BitVec.toNat_ushiftRight, Nat.shiftRight_eq_div_pow]
        omega
      rw [parityLoop_eq k _ _ hs, lowCount_succ]
      apply BitVec.eq_of_toNat_eq
      rw [toNat_xor_low]
      simp only [BitVec.toNat_ofNat, Nat.pow_one]
      omega

/-- The bit scan gives the parity (41_bit_count_parity.md R91). -/
theorem parityScan_eq (x : Word) : parityScan x = BitVec.ofNat 1 (parityOf x) := by
  rw [parityScan, parityLoop_eq 64 x 0 x.isLt, parityOf, popcount_eq_lowCount]
  apply BitVec.eq_of_toNat_eq
  simp

/-- A built table reads as the parities of its indices, whatever its draw is (42_parity_table.md R95). -/
theorem read_built (w d i : Nat) (h : i < 2 ^ w) :
    ({ entries := builtEntries w, draw := d } : Table).read i = parityBit i := by
  simp [Table.read, builtEntries, h, parityScan_eq, parityBit]

end Sys2Proof.Machine
end

