-- ==== Sys2Proof/Tests/Slice0.lean ====
section
/-! SUPPORT. Tests: ill-formed commands, decoding of words written out from 30_encoding.md R61, at most two one-step
tests per command with values from 95_test_vectors.md, and for every statement with hypotheses a witness that meets
them. -/

namespace Sys2Proof.Tests

open Sys2Proof.Machine Sys2Proof.Safety

/-! ### Well-formedness: each check refuses a command (30_encoding.md R72) -/

theorem test_wellFormed_refuses_buildTable_32 : (Instr.buildTable 32).wellFormed = false := by decide
theorem test_wellFormed_refuses_parityCached_n128 : (Instr.parityCached 128 16).wellFormed = false := by decide
theorem test_wellFormed_refuses_parityCached_w32 : (Instr.parityCached 64 32).wellFormed = false := by decide
theorem test_wellFormed_accepts_buildTable_0 : (Instr.buildTable 0).wellFormed = true := by decide

/-! ### Decoding words written out field by field: N_RSV1_W_RSV0_OP -/

theorem test_decode_countBits : decode 0b0000000_000_00000_0000_0001#64 = .command .countBits := by decide
theorem test_decode_parity : decode 0b0000000_000_00000_0000_0010#64 = .command .parity := by decide
theorem test_decode_parityFast : decode 0b0000000_000_00000_0000_0011#64 = .command .parityFast := by decide
theorem test_decode_buildTable : decode 0b0000000_000_10000_0000_0100#64 = .command (.buildTable 16) := by decide
theorem test_decode_parityCached : decode 0b1000000_000_10000_0000_0101#64 = .command (.parityCached 64 16) := by decide
theorem test_decode_parityCached_small : decode 0b0001000_000_00010_0000_0101#64 = .command (.parityCached 8 2) := by
  decide
theorem test_decode_tableRead : decode 0b0000000_000_00000_0000_0110#64 = .command .tableRead := by decide
theorem test_decode_zero : decode 0#64 = .illegal .reservedOpcode := by decide
theorem test_decode_rsv1 : decode 0x2001#64 = .illegal .reservedBits := by decide
theorem test_decode_bit23 : decode 0x801005#64 = .illegal .reservedBits := by decide
theorem test_decode_tableRead_w8 : decode 0x806#64 = .illegal .unusedField := by decide
theorem test_decode_buildTable_n8 : decode 0x80204#64 = .illegal .unusedField := by decide
theorem test_decodeTableWord : decodeTableWord 64 0x401005 = some (.parityCached 64 16) := by decide
theorem test_decodeBytes_short : decodeBytes [1, 0, 0, 0] = .illegal .notOneWord := by decide
theorem test_bytes_little_endian : bytesOfWord 0x401005#64 = [0x05, 0x10, 0x40, 0, 0, 0, 0, 0] := by decide

/-! ### One step of each command (95_test_vectors.md) -/

/-- The state a step leaves, if it leaves one. -/
def after (o : Host.Outcome State Fault Refusal) : Option State :=
  match o with
  | .next s => some s
  | .fault _ => none
  | .refused _ => none

/-- A valid table of width `w`, with OPERAND and OP_Q = `x`. -/
def ready (w : Nat) (x : Word) : State :=
  { State.reset with
    operand := x, opQ := x, tbl := { entries := builtEntries w, draw := 1 }, draws := 2, tableValid := true
    tableW := BitVec.ofNat 5 w }

/-- No table, with OPERAND and OP_Q = `x`. -/
def bare (x : Word) : State := { State.reset with operand := x, opQ := x }

/-- The unit with command word `c` in flight. -/
def inFlight (c : Word) (s : State) : State := { s with busy := true, cmdQ := c }

/-- STATUS and RESULT after the step that runs the command word `c` from `s`. -/
def runs (c : Nat) (s : State) : Option (Word × Word) :=
  (after (step (s.withFetchWord 64 c))).map fun t => (t.statusWord, t.result)

theorem test_countBits : runs 0x1 (bare 0x97) = some (0, 5) := by decide
theorem test_countBits_all : runs 0x1 (bare 0xFFFFFFFFFFFFFFFF) = some (0, 64) := by decide
theorem test_parity : runs 0x2 (bare 0x97) = some (0, 1) := by decide
theorem test_parity_bit63 : runs 0x2 (bare 0x8000000000000000) = some (0, 1) := by decide
theorem test_parityFast : runs 0x3 (bare 0x17) = some (0, 0) := by decide
theorem test_parityFast_63 : runs 0x3 (bare 0x7FFFFFFFFFFFFFFF) = some (0, 1) := by decide
theorem test_buildTable_2 :
    (after (step (State.reset.withFetchWord 64 0x204))).map (fun t => (t.tbl.entries, t.statusWord)) =
      some ([0, 1, 1, 0], 0x20100) := by decide
theorem test_buildTable_17 : runs 0x1104 (ready 4 0) = some (0x40120, 0) := by decide
theorem test_tableRead : runs 0x6 (ready 4 11) = some (0x40100, 1) := by decide
theorem test_tableRead_range : runs 0x6 (ready 2 4) = some (0x20160, 0) := by decide
theorem test_parityCached : runs 0x80205 (ready 2 0x97) = some (0x20100, 1) := by decide
theorem test_parityCached_range : runs 0x80205 (ready 2 0x100) = some (0x20150, 0) := by decide
theorem test_illegal : runs 0x101 (ready 2 0) = some (0x20110, 0) := by decide

/-! ### The port (95_test_vectors.md L2.5) -/

theorem test_read_param : portRead 0x00 8 State.reset = ⟨.okay, some 0x1040⟩ := by decide
theorem test_read_misaligned : portRead 0x04 8 State.reset = ⟨.error, some 0⟩ := by decide
theorem test_read_narrow : portRead 0x08 4 State.reset = ⟨.error, some 0⟩ := by decide
theorem test_write_overrun : ((portWrite 0x10 8 1 (inFlight 2 (bare 0))).2.cmdQ,
    (portWrite 0x10 8 1 (inFlight 2 (bare 0))).2.ovr) = (2, true) := by decide
theorem test_write_narrow_cmd : (portWrite 0x10 4 1 State.reset).2.busy = false := by decide
theorem test_busError_stops : ((hostStep 0
    { State.reset with masters := [Master.start [.access (.read (Config.unitBase + 4) 8), .wr .operand 7]] }).masters.map
      fun m => (m.fault, m.prog.length)) = [(some (.busError (Config.unitBase + 4)), 1)] := by
  simp [hostStep, Master.start, HostOp.rejection, HostOp.perform, busAccess_read, portRead, legalReg, Master.afterOp,
    faultOf, busError, HostOp.repeats, HostOp.addr, Request.addr]
theorem test_wrOperand_negative : ((hostStep 0
    { State.reset with masters := [Master.start [.wrOperand (-1), .wr .cmd 1]] }).masters.map
      fun m => (m.fault, m.responses.length)) = [(some (.rejected (-1)), 0)] := by decide
theorem test_wrOperand_65_bits : (hostStep 0
    { State.reset with masters := [Master.start [.wrOperand 0x10000000000000001]] }).operand = 0 := by decide
theorem test_wrOperand_64_bits : (hostStep 0
    { State.reset with masters := [Master.start [.wrOperand 0xFFFFFFFFFFFFFFFF]] }).operand =
      0xFFFFFFFFFFFFFFFF := by decide

/-! ### Witnesses: each statement's hypotheses are met, at the boundaries of their ranges -/

/-- A built table of a legal width meets the invariant, whatever the latched operand. -/
theorem inv_ready (w : Nat) (x : Word) (h1 : 1 ≤ w) (h2 : w ≤ Config.wMax) : Inv (ready w x) := by
  have l : w ≤ 16 := h2
  have tw : (ready w x).tableW.toNat = w := by
    show (BitVec.ofNat 5 w).toNat = w
    rw [BitVec.toNat_ofNat]
    omega
  exact {
    widthLegal := fun _ => by rw [tw]; exact ⟨h1, h2⟩
    widthZero := fun h => by cases h
    table := fun _ i hi => by rw [tw] at hi; exact read_built w 1 i hi
    errClear := fun _ => rfl
    errLegal := by show (0 : BitVec 4).toNat < 7; decide
    errNotNegative := by show (0 : BitVec 4) ≠ 3; decide
    tableForm := wf_built w 1 (decide_eq_true ⟨h1, h2⟩) }

/-- The reset state meets what the invariant needs at its boundary: no table. -/
theorem step_reset : step State.reset = .next State.reset := rfl

theorem witness_DecodeOfEncodeIsTheCommand :
    (Instr.parityCached 127 31).wellFormed = true ∧ (Instr.buildTable 31).wellFormed = true ∧
    (Instr.parityCached 0 0).wellFormed = true := by decide

theorem witness_EachCommandHasOneWord :
    decode 0x7F1F05#64 = .command (.parityCached 127 31) ∧ decode 0x1F04#64 = .command (.buildTable 31) := by decide

theorem witness_DecodeIsTheOpcodeTable :
    decode 0x7F1F05#64 = .command (.parityCached 127 31) ∧
    0x7F1F05#64 &&& (opcodeRows[4]).mask = (opcodeRows[4]).pat ∧ opcodeRows[4] ∈ opcodeRows := by decide

theorem witness_CommandWordsOfTheStandardForms : ∃ op w n : Nat, op < 16 ∧ w ≤ 31 ∧ n ≤ 127 ∧
    (op, w, n) = (15, 31, 127) := ⟨15, 31, 127, by decide⟩

theorem witness_IllegalWords_opcode :
    [0#64, 0x7#64, 0xF#64].all (fun c => (decode c).instr?.isNone) = true := by decide
theorem witness_IllegalWords_reserved :
    [0x11#64, 0x2001#64, 0x8000000000000005#64].all (fun c => (decode c).instr?.isNone) = true := by decide
theorem witness_IllegalWords_unused :
    [0x101#64, 0x10001#64, 0x10004#64].all (fun c => (decode c).instr?.isNone) = true := by decide
theorem witness_IllegalWordsCompleteWithCodeOne :
    (∃ why, decode 0x101#64 = .illegal why) ∧ (inFlight 0x101 (bare 0)).busy = true ∧
    (inFlight 0x101 (bare 0)).cmdQ = 0x101 := ⟨⟨.unusedField, by decide⟩, rfl, rfl⟩

theorem witness_OutOfRangeWidthsDecodeAndFail :
    (∀ w ∈ [0, 17, 31], w ≤ 31 ∧ (w = 0 ∨ Config.wMax < w) ∧ (inFlight (enc 4 w 0) (bare 0)).busy = true) ∧
    (∀ p ∈ [(64, 0), (64, 17), (127, 31), (0, 16), (65, 16), (10, 4)], p.1 ≤ 127 ∧ p.2 ≤ 31 ∧
      (p.2 = 0 ∨ Config.wMax < p.2 ∨ p.1 = 0 ∨ Config.xlen < p.1 ∨ p.1 % p.2 ≠ 0) ∧
      (inFlight (enc 5 p.2 p.1) (bare 0)).busy = true) := by decide

theorem witness_NaiveCommandsIgnoreTheTable :
    Instr.parityFast ∈ [Instr.countBits, .parity, .parityFast] ∧ (ready 2 5).opQ = (bare 5).opQ ∧
    ((Instr.tableRead = .tableRead ∨ ∃ n w, Instr.tableRead = .parityCached n w) ∧
      (Instr.parityCached 64 16 = .tableRead ∨ ∃ n w, Instr.parityCached 64 16 = .parityCached n w)) :=
  ⟨by decide, rfl, .inl rfl, .inr ⟨64, 16, rfl⟩⟩

theorem witness_BuildTableWritesTheParities :
    (1 ≤ 1 ∧ 1 ≤ Config.wMax) ∧ (1 ≤ 16 ∧ 16 ≤ Config.wMax) ∧ ((0 : Nat) = 0 ∨ Config.wMax < 0) ∧
    ((17 : Nat) = 0 ∨ Config.wMax < 17) := by decide

theorem witness_TableReadReturnsTheEntry :
    (∀ p ∈ [(1, 0#64), (1, 1#64), (2, 3#64), (16, 0xFFFF#64)], (ready p.1 p.2).tableValid = true ∧
      (ready p.1 p.2).opQ.toNat < 2 ^ (ready p.1 p.2).tableW.toNat) ∧
    (bare 0).tableValid = false ∧
    (∀ p ∈ [(1, 2#64), (2, 4#64), (16, 0x10000#64), (2, 0xFFFFFFFFFFFFFFFF#64)], (ready p.1 p.2).tableValid = true ∧
      2 ^ (ready p.1 p.2).tableW.toNat ≤ (ready p.1 p.2).opQ.toNat) := by decide

theorem witness_TableReadReturnsTheParityOfItsIndex :
    (Inv (ready 16 0xFFFF) ∧ (ready 16 0xFFFF).opQ.toNat < 2 ^ (ready 16 0xFFFF).tableW.toNat) ∧
    (Inv (ready 1 0) ∧ (ready 1 0).opQ.toNat < 2 ^ (ready 1 0).tableW.toNat) ∧
    (ready 16 0xFFFF).tableValid = true ∧ (ready 1 0).tableValid = true :=
  ⟨⟨inv_ready 16 _ (by decide) (by decide), by decide⟩, ⟨inv_ready 1 _ (by decide) (by decide), by decide⟩, rfl, rfl⟩

theorem witness_OnlyBuildAndResetChangeTheTable :
    step State.reset = .next State.reset ∧ nextChangesTable State.reset = false ∧
    (Host.Core.run Sys2Proof.core 1 State.reset = .next State.reset ∧
      ∀ (j : Nat) (u : State), j < 1 → Host.Core.run Sys2Proof.core j State.reset = .next u →
        nextChangesTable u = false) := by
  refine ⟨step_reset, by decide, run_next step_reset, fun j u hj h => ?_⟩
  obtain rfl : j = 0 := by omega
  have e : State.reset = u := Host.Outcome.next.inj h
  exact e ▸ (by decide : nextChangesTable State.reset = false)

theorem witness_RebuildsReadAlike : (1 ≤ 1 ∧ 1 ≤ Config.wMax) ∧ (1 ≤ 16 ∧ 16 ≤ Config.wMax) := by decide

/-- N, W and x at the ends of their ranges, with the table of W valid (43_cached_parity.md R99). -/
theorem witness_ParityCachedIsTheXorOfItsLanes :
    ∀ p ∈ [(1, 1, 1#64), (64, 1, 0xFFFFFFFFFFFFFFFF#64), (16, 16, 0xFFFF#64), (64, 16, 0xFFFFFFFFFFFFFFFF#64),
        (48, 16, 0xFFFFFFFFFFFF#64), (8, 2, 0x97#64)],
      1 ≤ p.2.1 ∧ p.2.1 ≤ Config.wMax ∧ 1 ≤ p.1 ∧ p.1 ≤ Config.xlen ∧ p.1 % p.2.1 = 0 ∧
      (ready p.2.1 p.2.2).tableValid = true ∧ (ready p.2.1 p.2.2).tableW.toNat = p.2.1 ∧
      (ready p.2.1 p.2.2).opQ.toNat < 2 ^ p.1 := by decide

theorem witness_SixtyFourBySixteenIsFourLookUps :
    (ready 16 0xFF08FF08FF08FF08).tableValid = true ∧ (ready 16 0xFF08FF08FF08FF08).tableW = 16 := by decide

theorem witness_CachedParityAgreesWithTheOracle :
    (Inv (ready 1 1) ∧ ∃ t, exec (.parityCached 1 1) (ready 1 1) = .next t ∧ t.err = 0) ∧
    (∀ p ∈ [(1, 1, 1#64), (64, 16, 0xFFFFFFFFFFFFFFFF#64)], Inv (ready p.2.1 p.2.2)) := by
  refine ⟨⟨inv_ready 1 1 (by decide) (by decide), _, rfl, by decide⟩, fun p hp => ?_⟩
  simp only [List.mem_cons, List.not_mem_nil, or_false] at hp
  rcases hp with rfl | rfl
  · exact inv_ready 1 _ (by decide) (by decide)
  · exact inv_ready 16 _ (by decide) (by decide)

/-- One lane, and four lanes in another order and shape than the loop's. -/
theorem witness_EveryCombineTreeGivesTheValue :
    (CombineTree.lane 0).lanes.Perm (List.range (1 / 1)) ∧
    (CombineTree.node (.node (.lane 2) (.lane 0)) (.node (.lane 1) (.lane 3))).lanes.Perm (List.range (8 / 2)) := by
  decide

theorem witness_StepRunsTheDecodedCommand :
    (inFlight 0x1 (bare 5)).err.toNat < 7 ∧ (inFlight 0x1 (bare 5)).busy = true ∧
    decode (inFlight 0x1 (bare 5)).cmdQ = .command .countBits ∧ (inFlight 0x1 (bare 5)).turns = [] ∧
    ({ inFlight 0x1 (bare 5) with turns := [.unit] } : State).turns = .unit :: [] := by decide

theorem witness_NextStepRunsTheFetchWord : (Instr.parityCached 64 16).wellFormed = true := by decide

theorem witness_CompletionAppliesExecute :
    (bare 0).busy = false ∧ (inFlight 0x1 (bare 5)).busy = true ∧
    execute 0x1 5 false 0 State.reset.tbl = .ok (.result 2) ∧
    execute 0x101 5 false 0 State.reset.tbl = .err .illegalCommand ∧
    execute 0x104 5 false 0 State.reset.tbl = .ok (.table [0, 1] 1) := by decide

theorem witness_FailureWritesOnlyErrAndBusy :
    (inFlight 0x101 (bare 5)).busy = true ∧ ∃ t, unitStep (inFlight 0x101 (bare 5)) = .next t ∧ t.err ≠ 0 :=
  ⟨rfl, _, rfl, by decide⟩

theorem witness_CompletionIsDeterministic :
    (inFlight 0x1 (bare 5)).busy = true ∧
    ({ inFlight 0x1 (bare 5) with operand := 9, result := 3, ovr := true } : State).cmdQ = (inFlight 0x1 (bare 5)).cmdQ ∧
    ({ inFlight 0x1 (bare 5) with operand := 9 } : State).opQ = (inFlight 0x1 (bare 5)).opQ ∧
    sameTable { inFlight 0x1 (bare 5) with operand := 9 } (inFlight 0x1 (bare 5)) := ⟨rfl, rfl, rfl, rfl, rfl, rfl⟩

theorem witness_ErrorPriority : (inFlight 0x8000000000401005 (bare 0)).busy = true := rfl

theorem witness_ReservedCodesAreNeverWritten : step State.reset = .next State.reset := step_reset

theorem witness_NegativeInputIsNeverRaised : (inFlight 0x6 (bare 0)).busy = true := rfl

theorem witness_ReservedCodeIsStuck :
    7 ≤ ({ State.reset with err := 7 } : State).err.toNat ∧ 7 ≤ ({ State.reset with err := 15 } : State).err.toNat := by
  decide

theorem witness_StepKeepsTheInvariant :
    Inv (ready 16 5) ∧ ∃ t, step (ready 16 5) = .next t :=
  ⟨inv_ready 16 5 (by decide) (by decide), ready 16 5, rfl⟩

theorem witness_NoStepStopsUnderTheInvariant : Inv (ready 16 5) := inv_ready 16 5 (by decide) (by decide)

theorem witness_NothingShowsBeforeCompletion :
    ({ inFlight 0x1 (bare 5) with turns := [.host 0] } : State).err.toNat < 7 ∧
    ({ inFlight 0x1 (bare 5) with turns := [.host 0] } : State).busy = true ∧
    nextIsReset { inFlight 0x1 (bare 5) with turns := [.host 0] } = false ∧
    nextIsCompletion { inFlight 0x1 (bare 5) with turns := [.host 0] } = false := by decide

theorem witness_ResultChangesOnlyAtSuccessOrReset :
    ∃ t, step (inFlight 0x1 (bare 5)) = .next t ∧ t.result ≠ (inFlight 0x1 (bare 5)).result :=
  ⟨_, rfl, by decide⟩

theorem witness_AcceptedCommandsComplete :
    ({ inFlight 0x1 (bare 5) with turns := [.host 0, .host 0] } : State).err.toNat < 7 ∧
    ({ inFlight 0x1 (bare 5) with turns := [.host 0, .host 0] } : State).busy = true ∧
    Turn.reset ∉ ({ inFlight 0x1 (bare 5) with turns := [.host 0, .host 0] } : State).turns ∧
    ({ inFlight 0x1 (bare 5) with turns := [.host 0, .reset] } : State).busy = true ∧
    ({ inFlight 0x1 (bare 5) with turns := [.host 0, .reset] } : State).err.toNat < 7 := by decide

theorem witness_WritesHaveTheirEffects :
    State.reset.busy = false ∧ (inFlight 1 (bare 0)).busy = true ∧ (0x2#64).getLsbD 1 = true ∧
    (0xFFFFFFFFFFFFFFFD#64).getLsbD 1 = false := by decide

theorem witness_IdleCmdWriteIsAccepted : State.reset.busy = false := rfl

theorem witness_BusyCmdWriteIsDropped : (inFlight 1 (bare 0)).busy = true := rfl

theorem witness_OtherAccessesAreBusErrors :
    ∀ p ∈ [(0, 4), (0x3F, 8), (0x07, 8), (0x28, 8), (0x30, 1), (0x38, 8), (0x10, 0), (0x20, 16)],
      p.1 < 0x40 ∧ (p.2 ≠ 8 ∨ p.1 % 8 ≠ 0 ∨ p.1 ∈ [0x28, 0x30, 0x38]) := by decide

theorem witness_BusErrorStopsItsMaster :
    ({ State.reset with masters := [Master.start [.access (.read (Config.unitBase + 0x04) 8)]] } : State).masters[0]? =
      some (Master.start [.access (.read (Config.unitBase + 0x04) 8)]) ∧
    (Master.start [.access (.read (Config.unitBase + 0x04) 8)]).fault = none ∧
    (Master.start [.access (.read (Config.unitBase + 0x04) 8)]).prog =
      .access (.read (Config.unitBase + 0x04) 8) :: [] ∧
    (busAccess (.read (Config.unitBase + 0x04) 8) State.reset).1 = some busError :=
  ⟨rfl, rfl, rfl, by rw [busAccess_read _ _ _ (by decide)]; rfl⟩

theorem witness_OnlyWindowAccessesReachTheUnit :
    (∀ off ∈ [0, 0x3F], Config.unitBase ≤ Config.unitBase + off ∧ Config.unitBase + off < Config.unitBase + 0x40) ∧
    ¬ (Config.unitBase ≤ Config.unitBase + 0x40 ∧ Config.unitBase + 0x40 < Config.unitBase + 0x40) := by
  refine ⟨fun off h => ?_, by omega⟩
  simp only [List.mem_cons, List.not_mem_nil, or_false] at h
  omega

theorem witness_IdempotenceOfAccesses : State.reset.busy = false ∧ (0x2#64).getLsbD 1 = true := by decide

theorem witness_OvrIsSticky :
    (inFlight 1 (bare 0)).busy = true ∧ (0x2#64).getLsbD 1 = true ∧ (0x1#64).getLsbD 1 = false ∧
    State.reset.busy = false ∧ ∃ t, unitStep State.reset = .next t := ⟨rfl, by decide, by decide, rfl, _, rfl⟩

theorem witness_OperandIsLatchedAtAcceptance : State.reset.busy = false ∧ (inFlight 1 (bare 5)).busy = true := ⟨rfl, rfl⟩

theorem witness_MemoryImageIsLittleEndian : (0 < 8 ∧ 0 < 8) ∧ (7 < 8 ∧ 7 < 8) := by decide

theorem witness_WaitEndsWhenBusyReadsZero :
    ({ State.reset with masters := [Master.start [.wait, .rd .result]] } : State).masters[0]? =
      some (Master.start [.wait, .rd .result]) ∧
    (Master.start [.wait, .rd .result]).fault = none ∧
    (Master.start [.wait, .rd .result]).prog = .wait :: [.rd .result] := by decide

/-- A value one below the range, the two ends of it, and one above it. -/
theorem witness_HostRejectsValuesOperandCannotHold :
    (∀ v ∈ [(-1 : Int), 0, 2 ^ 64 - 1, 2 ^ 64],
      ({ State.reset with masters := [Master.start [.wrOperand v, .wr .cmd 1]] } : State).masters[0]? =
        some (Master.start [.wrOperand v, .wr .cmd 1]) ∧
      (Master.start [.wrOperand v, .wr .cmd 1]).fault = none ∧
      (Master.start [.wrOperand v, .wr .cmd 1]).prog = .wrOperand v :: [.wr .cmd 1]) ∧
    (((-1 : Int) < 0 ∨ 2 ^ 64 ≤ (-1 : Int)) ∧ ((2 ^ 64 : Int) < 0 ∨ 2 ^ 64 ≤ (2 ^ 64 : Int))) ∧
    ((0 ≤ (0 : Int) ∧ (0 : Int) < 2 ^ 64) ∧ (0 ≤ (2 ^ 64 - 1 : Int) ∧ (2 ^ 64 - 1 : Int) < 2 ^ 64)) := by decide

theorem witness_MasterStepsAreSeparate : (1 : Nat) ≠ 0 := by decide

theorem witness_ResetStepClearsTheRegisters :
    ({ State.reset with turns := [.reset] } : State).err.toNat < 7 ∧
    ({ State.reset with turns := [.reset] } : State).turns = .reset :: [] := by decide

theorem witness_ResetStepKeepsTheHostAgent :
    ({ State.reset with turns := [.reset, .host 0] } : State).err.toNat < 7 ∧
    ({ State.reset with turns := [.reset, .host 0] } : State).turns = .reset :: [.host 0] := by decide

theorem witness_ResetAbortsTheCommandInFlight :
    ({ inFlight 0x204 (bare 0) with turns := [.reset] } : State).err.toNat < 7 ∧
    ({ inFlight 0x204 (bare 0) with turns := [.reset] } : State).busy = true ∧
    ({ inFlight 0x204 (bare 0) with turns := [.reset] } : State).turns = .reset :: [] := by decide

end Sys2Proof.Tests
end

section
/-! PROOFS. The registers of 10_state.md: what a write of CMD and of STATUS does, where each bit of STATUS comes from,
and the statements on PARAM, STATUS and OVR. -/

namespace Sys2Proof.Machine

/-! ### What a write of CMD and of STATUS does (20_memory.md R47) -/

section
variable {s : State} {v : Word}

@[simp] theorem writeReg_cmd_of_busy (h : s.busy = true) : writeReg .cmd v s = s.overrun := if_pos h

@[simp] theorem writeReg_cmd_of_idle (h : s.busy = false) : writeReg .cmd v s = s.accept v :=
  if_neg (Bool.eq_false_iff.mp h)

theorem writeReg_status_of_bit (h : v.getLsbD 1 = true) : writeReg .status v s = s.clearOvr := if_pos h

theorem writeReg_status_of_not_bit (h : v.getLsbD 1 = false) : writeReg .status v s = s :=
  if_neg (Bool.eq_false_iff.mp h)

end

/-- A STATUS write is an update of OVR alone (10_state.md R27). -/
theorem writeReg_status (v : Word) (s : State) :
    writeReg .status v s = { s with ovr := if v.getLsbD 1 then false else s.ovr } := by
  cases h : v.getLsbD 1
  · exact writeReg_status_of_not_bit h
  · exact writeReg_status_of_bit h

/-- Completion, or a turn of the unit that is not enabled, keeps OVR (10_state.md R29). -/
theorem unitStep_keeps_ovr {s t : State} (h : unitStep s = .next t) : t.ovr = s.ovr := by
  obtain ⟨_, idle⟩ | ⟨_, out, completes⟩ := unitStep_cases s
  · cases idle.symm.trans h
    rfl
  · cases completes.symm.trans h
    exact complete_ovr out s

/-! ### The fields of STATUS (10_state.md R27) -/

/-- Where each bit of STATUS comes from; TABLE_W has no bit 5 and above, so the bits above 20 are 0. -/
theorem State.statusWord_getLsbD (s : State) (i : Nat) :
    s.statusWord.getLsbD i =
      if i = 0 then s.busy
      else if i = 1 then s.ovr
      else if i < 4 then false
      else if i < 8 then s.err.getLsbD (i - 4)
      else if i = 8 then s.tableValid
      else if i < 16 then false
      else s.tableW.getLsbD (i - 16) := by
  -- Each append takes its low part's width off the index; what is left is which range of bits holds `i`.
  simp only [statusWord, BitVec.getLsbD_setWidth, BitVec.getLsbD_append, BitVec.getLsbD_ofBool]
  grind

section
variable (s : State)

theorem State.statusWord_busy : s.statusWord.getLsbD 0 = s.busy := s.statusWord_getLsbD 0

theorem State.statusWord_ovr : s.statusWord.getLsbD 1 = s.ovr := s.statusWord_getLsbD 1

theorem State.statusWord_tableValid : s.statusWord.getLsbD 8 = s.tableValid := s.statusWord_getLsbD 8

theorem State.statusWord_err : s.statusWord.extractLsb' 4 4 = s.err := by
  ext i hi
  simp only [BitVec.getElem_extractLsb', statusWord_getLsbD]
  grind

theorem State.statusWord_tableW : s.statusWord.extractLsb' 16 5 = s.tableW := by
  ext i hi
  simp only [BitVec.getElem_extractLsb', statusWord_getLsbD]
  grind

/-- The reserved ranges of STATUS: a field of `n` bits at `b` is 0 where it holds bits 3:2, 15:9 or 63:21 only. -/
theorem State.statusWord_reserved (b n : Nat) (h : (2 ≤ b ∧ b + n ≤ 4) ∨ (9 ≤ b ∧ b + n ≤ 16) ∨ 21 ≤ b) :
    s.statusWord.extractLsb' b n = 0 := by
  ext i hi
  simp only [BitVec.getElem_extractLsb', statusWord_getLsbD]
  obtain low | middle | high := h <;> grind

end

end Sys2Proof.Machine

namespace Sys2Proof.Proofs

open Sys2Proof.Machine

/-- Settles O41: the layout from the fields of STATUS, the write from `writeReg_status`. -/
theorem statusLayout : Obligations.StatusLayout := by
  refine ⟨fun s => ⟨portRead_offset .status s, s.statusWord_busy, s.statusWord_ovr, ?_, s.statusWord_err,
    s.statusWord_tableValid, ?_, s.statusWord_tableW, ?_⟩, by decide, fun s v => ?_⟩
  · exact s.statusWord_reserved 2 2 (by decide)
  · exact s.statusWord_reserved 9 7 (by decide)
  · exact s.statusWord_reserved 21 43 (by decide)
  · calc (portWrite Reg.status.offset 8 v s).2
        = writeReg .status v s := by rw [portWrite_offset]
      _ = { s with ovr := if v.getLsbD 1 then false else s.ovr } := writeReg_status v s

/-- Settles O40: the constant by evaluation, and a read of PARAM returns it from every state. -/
theorem paramIsConstant : Obligations.ParamIsConstant :=
  ⟨by decide, by decide, by decide, by decide, portRead_offset .param⟩

/-- Settles O51: one clause for each operation that could touch OVR. -/
theorem ovrIsSticky : Obligations.OvrIsSticky := by
  refine ⟨fun s c busy => ?_, fun s v bit => ?_, fun s v bit => ?_, fun s c idle => ?_,
    fun s t => unitStep_keeps_ovr, rfl⟩
  · exact writeReg_cmd_of_busy busy
  · rw [writeReg_status_of_bit bit, State.clearOvr_ovr]
  · rw [writeReg_status_of_not_bit bit]
  · rw [writeReg_cmd_of_idle idle, State.accept_ovr]

end Sys2Proof.Proofs
end

section
/-! PROOFS. The register-access port of 20_memory.md: which accesses reach a register, which are bus errors, which
the unit does not see, and the statements on reads, writes and their repetition. -/

namespace Sys2Proof.Machine

/-! ### Accesses that reach a register (20_memory.md R46, R47) -/

theorem Reg.offset_lt (r : Reg) : r.offset < 0x40 := by cases r <;> decide

/-- An 8-byte read at a register's offset returns the register and keeps the state. -/
theorem busAccess_read_offset (r : Reg) (s : State) :
    busAccess (.read (Config.unitBase + r.offset) 8) s = (some (okayRead (readReg r s)), s) := by
  rw [busAccess_read _ _ _ r.offset_lt, portRead_offset]

/-- An 8-byte write at a register's offset is a write of that register: its data has the register's width. -/
theorem busAccess_write_offset (r : Reg) (v : Word) (s : State) :
    busAccess (.write (Config.unitBase + r.offset) 8 v) s = (some okayWrite, writeReg r v s) := by
  have sameWidth : BitVec.setWidth 64 (v : BitVec (8 * 8)) = v := BitVec.setWidth_eq v
  rw [busAccess_write _ _ _ _ r.offset_lt, sameWidth, portWrite_offset]

/-! ### Bus errors (20_memory.md R43, R45) -/

/-- Every register stands on the 8-byte grid and at none of the reserved offsets. -/
theorem Reg.offset_mapped (r : Reg) : r.offset % 8 = 0 ∧ r.offset ∉ [0x28, 0x30, 0x38] := by
  cases r <;> decide

/-- An access that is not of 8 bytes, or misaligned, or at a reserved offset reaches no register. -/
theorem legalReg_eq_none {off n : Nat} (h : n ≠ 8 ∨ off % 8 ≠ 0 ∨ off ∈ [0x28, 0x30, 0x38]) :
    legalReg off n = none := by
  refine Option.eq_none_iff_forall_ne_some.mpr fun r reaches => ?_
  obtain ⟨rfl, rfl⟩ := (legalReg_eq_some off n r).mp reaches
  obtain ⟨aligned, notReserved⟩ := r.offset_mapped
  obtain size | misaligned | reserved := h
  · exact size rfl
  · exact misaligned aligned
  · exact notReserved reserved

theorem portRead_of_illegal {off n : Nat} (s : State) (h : legalReg off n = none) :
    portRead off n s = busError := by
  simp only [portRead, h]

theorem portWrite_of_illegal {off n : Nat} (v : Word) (s : State) (h : legalReg off n = none) :
    portWrite off n v s = (busError, s) := by
  simp only [portWrite, h]

/-! ### The window (20_memory.md R42) -/

theorem inWindow_eq_false {a : Nat} (h : ¬ (Config.unitBase ≤ a ∧ a < Config.unitBase + 0x40)) :
    inWindow a = false :=
  decide_eq_false h

/-- The unit does not see an access outside its window. -/
theorem busAccess_outside (q : Request) (s : State) (h : inWindow q.addr = false) :
    busAccess q s = (none, s) := by
  cases q <;> exact if_neg (Bool.eq_false_iff.mp h)

/-- A read of any address and size keeps the state (20_memory.md R46, R51). -/
theorem busAccess_read_state (a n : Nat) (s : State) : (busAccess (.read a n) s).2 = s := by
  simp only [busAccess]
  split <;> rfl

/-! ### A second CMD write (20_memory.md R51) -/

/-- The unit's step is enabled where BUSY = 1 and is a completion (40_command_cycle.md R78). -/
theorem unitStep_of_busy {s : State} (h : s.busy = true) : ∃ out, unitStep s = .next (s.complete out) := by
  obtain ⟨idle, _⟩ | ⟨_, completes⟩ := unitStep_cases s
  · exact absurd (h.symm.trans idle) (by decide)
  · exact completes

end Sys2Proof.Machine

namespace Sys2Proof.Proofs

open Sys2Proof.Machine

/-- Settles O42: each mapped offset is a register's, and a read returns it. -/
theorem readsReturnTheRegisters : Obligations.ReadsReturnTheRegisters := fun s =>
  ⟨busAccess_read_offset .param s, busAccess_read_offset .operand s, busAccess_read_offset .cmd s,
    busAccess_read_offset .status s, busAccess_read_offset .result s⟩

/-- Settles O43: each mapped offset is a register's, and the effect is that of the register write. -/
theorem writesHaveTheirEffects : Obligations.WritesHaveTheirEffects := by
  intro s v
  have cmd := busAccess_write_offset .cmd v s
  have status := busAccess_write_offset .status v s
  refine ⟨busAccess_write_offset .param v s, busAccess_write_offset .operand v s, fun idle => ?_, fun busy => ?_,
    fun bit => ?_, fun bit => ?_, busAccess_write_offset .result v s⟩
  · rwa [writeReg_cmd_of_idle idle] at cmd
  · rwa [writeReg_cmd_of_busy busy] at cmd
  · rwa [writeReg_status_of_bit bit] at status
  · rwa [writeReg_status_of_not_bit bit] at status

/-- Settles O46: such an access reaches no register, so the port raises a bus error. -/
theorem otherAccessesAreBusErrors : Obligations.OtherAccessesAreBusErrors := by
  intro s off n v inside other
  have illegal := legalReg_eq_none other
  constructor
  · rw [busAccess_read off n s inside, portRead_of_illegal s illegal, busError]
  · rw [busAccess_write off n v s inside, portWrite_of_illegal _ s illegal, busError]

/-- Settles O48: an address inside the window is UNIT_BASE plus an offset; one outside is not seen. -/
theorem onlyWindowAccessesReachTheUnit : Obligations.OnlyWindowAccessesReachTheUnit := by
  intro s a n v
  constructor
  · rintro ⟨above, below⟩
    obtain ⟨off, rfl⟩ := Nat.exists_eq_add_of_le above
    have inside : off < 0x40 := Nat.lt_of_add_lt_add_left below
    rw [Nat.add_sub_cancel_left]
    exact ⟨busAccess_read off n s inside, busAccess_write off n v s inside⟩
  · intro outside
    have unseen := inWindow_eq_false outside
    exact ⟨busAccess_outside (.read a n) s unseen, busAccess_outside (.write a n v) s unseen⟩

/-- Settles O49: PARAM and RESULT take no write, and a STATUS write is an update of OVR alone. -/
theorem readOnlyWritesAreIgnored : Obligations.ReadOnlyWritesAreIgnored := by
  intro s v
  have status : portWrite 0x18 8 v s = (okayWrite, writeReg .status v s) := portWrite_offset .status v s
  exact ⟨portWrite_offset .param v s, portWrite_offset .result v s, congrArg Prod.fst status,
    _, (congrArg Prod.snd status).trans (writeReg_status v s)⟩

/-- Settles O50: after an acceptance BUSY = 1, so a second CMD write overruns; after its completion BUSY = 0, so the
second is accepted and completes in turn. -/
theorem idempotenceOfAccesses : Obligations.IdempotenceOfAccesses := by
  refine ⟨fun s a n => busAccess_read_state a n s, fun s v => rfl, fun s c idle => ?_, fun s v bit => ?_⟩
  · obtain ⟨out, first⟩ := unitStep_of_busy (s.accept_busy c)
    have accepted : writeReg .cmd c ((s.accept c).complete out) = ((s.accept c).complete out).accept c :=
      writeReg_cmd_of_idle (complete_busy out _)
    obtain ⟨out', second⟩ := unitStep_of_busy (State.accept_busy ((s.accept c).complete out) c)
    rw [writeReg_cmd_of_idle idle]
    exact ⟨_, _, first, accepted, (congrArg unitStep accepted).trans second, writeReg_cmd_of_busy (s.accept_busy c)⟩
  · rw [writeReg_status_of_bit bit, State.clearOvr_ovr]

end Sys2Proof.Proofs
end

section
/-! PROOFS. The command word of 30_encoding.md: its fields, which words Decode takes for a command, the rows of the
opcode table, how ILLEGAL words and widths out of range complete, and the statements on them. -/

namespace Sys2Proof

/-! ### The fields of a command word (30_encoding.md R61, R68) -/

section
variable {c : Word} {op w n : Nat}

/-- The shifted fields of `enc` do not overlap, so its ORs are sums. -/
theorem toNat_enc (hop : op < 16) (hw : w ≤ 31) (hn : n ≤ 127) :
    (enc op w n).toNat = n * 2 ^ 16 + w * 2 ^ 8 + op := by
  have low : w <<< 8 ||| op = w * 2 ^ 8 + op := by
    rw [← Nat.shiftLeft_add_eq_or_of_lt (by omega), Nat.shiftLeft_eq]
  have all : n <<< 16 ||| w <<< 8 ||| op = n * 2 ^ 16 + w * 2 ^ 8 + op := by
    rw [Nat.or_assoc, low, ← Nat.shiftLeft_add_eq_or_of_lt (by omega), Nat.shiftLeft_eq, Nat.add_assoc]
  rw [enc, all, BitVec.toNat_ofNat]
  omega

/-- A command word has the fields it was made of and 0 in every reserved bit, and these determine it. -/
theorem eq_enc_iff (hop : op < 16) (hw : w ≤ 31) (hn : n ≤ 127) :
    c = enc op w n ↔ fieldOp c = op ∧ fieldW c = w ∧ fieldN c = n ∧
      fieldRsv0 c = 0 ∧ fieldRsv1 c = 0 ∧ fieldRsv2 c = 0 := by
  have bound := c.isLt
  rw [← BitVec.toNat_inj, toNat_enc hop hw hn]
  simp only [fieldOp, fieldRsv0, fieldW, fieldRsv1, fieldN, fieldRsv2, BitVec.extractLsb'_toNat,
    Nat.shiftRight_eq_div_pow]
  omega

end

/-! ### Decode (30_encoding.md R67, R69) -/

/-- What makes a word ILLEGAL: its opcode, a reserved bit, or a field that its command does not use
(30_encoding.md R69). -/
def IllegalCause (c : Word) : Prop :=
  (fieldOp c = 0 ∨ 7 ≤ fieldOp c) ∨
  (fieldRsv0 c ≠ 0 ∨ fieldRsv1 c ≠ 0 ∨ fieldRsv2 c ≠ 0) ∨
  (fieldOp c ∈ [1, 2, 3, 6] ∧ (fieldW c ≠ 0 ∨ fieldN c ≠ 0)) ∨
  (fieldOp c = 4 ∧ fieldN c ≠ 0)

/-- Decode answers ILLEGAL for a cause of R69, and else what the opcode map has for the fields. -/
theorem decode_cases (c : Word) :
    (IllegalCause c ∧ ∃ why, decode c = .illegal why) ∨
    (¬ IllegalCause c ∧ decode c = commandOf (fieldOp c) (fieldW c) (fieldN c)) := by
  unfold decode
  split_ifs with opcode reserved unused unusedN
  · exact .inl ⟨.inl opcode, _, rfl⟩
  · exact .inl ⟨.inr (.inl reserved), _, rfl⟩
  · obtain ⟨fixed, nonzero⟩ := unused
    exact .inl ⟨.inr (.inr (.inl ⟨by simpa using fixed, nonzero⟩)), _, rfl⟩
  · exact .inl ⟨.inr (.inr (.inr unusedN)), _, rfl⟩
  · exact .inr ⟨by simp [IllegalCause, *], rfl⟩

theorem decode_eq_command_iff (c : Word) (i : Instr) :
    decode c = .command i ↔ ¬ IllegalCause c ∧ commandOf (fieldOp c) (fieldW c) (fieldN c) = .command i := by
  obtain ⟨cause, why, illegal⟩ | ⟨legal, byMap⟩ := decode_cases c
  · simp [cause, illegal]
  · simp [legal, byMap]

section
variable {op w n : Nat} {i : Instr}

/-- The opcodes outside R69's first cause are those of the opcode map. -/
theorem exists_commandOf (pos : op ≠ 0) (lt : op < 7) (w n : Nat) : ∃ i, commandOf op w n = .command i := by
  interval_cases op
  · contradiction
  all_goals exact ⟨_, rfl⟩

/-- The widths of a command are the fields themselves, unscaled (30_encoding.md R63, R64). -/
theorem commandOf_widths (h : commandOf op w n = .command i) :
    (∀ w', i = .buildTable w' → w' = w) ∧ (∀ n' w', i = .parityCached n' w' → w' = w ∧ n' = n) := by
  unfold commandOf at h
  split at h <;> cases h <;> simp +contextual

end

/-- A word that has no cause of R69 decodes to a command. -/
theorem exists_command_of_legal {c : Word} (legal : ¬ IllegalCause c) : ∃ i, decode c = .command i := by
  obtain ⟨pos, lt⟩ : fieldOp c ≠ 0 ∧ fieldOp c < 7 := by
    unfold IllegalCause at legal
    omega
  obtain ⟨i, command⟩ := exists_commandOf pos lt (fieldW c) (fieldN c)
  exact ⟨i, (decode_eq_command_iff c i).mpr ⟨legal, command⟩⟩

theorem decode_illegal_iff (c : Word) : (∃ why, decode c = .illegal why) ↔ IllegalCause c := by
  obtain ⟨cause, illegal⟩ | ⟨legal, _⟩ := decode_cases c
  · exact iff_of_true illegal cause
  · obtain ⟨i, command⟩ := exists_command_of_legal legal
    simp [legal, command]

/-! ### Words of the commands that use a width (30_encoding.md R70) -/

theorem decode_enc_buildTable {w : Nat} (hw : w ≤ 31) : decode (enc 4 w 0) = .command (.buildTable w) := by
  obtain ⟨op, fw, fn, rsv0, rsv1, rsv2⟩ := (eq_enc_iff (c := enc 4 w 0) (by decide) hw (by decide)).mp rfl
  rw [decode_eq_command_iff, IllegalCause, op, fw, fn, rsv0, rsv1, rsv2]
  simp [commandOf]

theorem decode_enc_parityCached {n w : Nat} (hn : n ≤ 127) (hw : w ≤ 31) :
    decode (enc 5 w n) = .command (.parityCached n w) := by
  obtain ⟨op, fw, fn, rsv0, rsv1, rsv2⟩ := (eq_enc_iff (c := enc 5 w n) (by decide) hw hn).mp rfl
  rw [decode_eq_command_iff, IllegalCause, op, fw, fn, rsv0, rsv1, rsv2]
  simp [commandOf]

/-! ### The rows of the opcode table (30_encoding.md R67) -/

section
variable {c m : Word} {b k : Nat}

theorem field_and_of_ones (h : m.extractLsb' b k = BitVec.allOnes k) :
    ((c &&& m).extractLsb' b k).toNat = (c.extractLsb' b k).toNat := by
  rw [BitVec.extractLsb'_and, h, BitVec.and_allOnes]

theorem field_and_of_zeros (h : m.extractLsb' b k = 0#k) : ((c &&& m).extractLsb' b k).toNat = 0 := by
  rw [BitVec.extractLsb'_and, h, BitVec.and_zero, BitVec.toNat_zero]

end

/-- The form of a row: the match holds the opcode alone, and the mask every field but those the command uses. -/
structure OpcodeRow.Formed (r : OpcodeRow) : Prop where
  pat : r.pat = enc (fieldOp r.pat) 0 0
  op : r.mask.extractLsb' 0 4 = BitVec.allOnes 4
  rsv0 : r.mask.extractLsb' 4 4 = BitVec.allOnes 4
  rsv1 : r.mask.extractLsb' 13 3 = BitVec.allOnes 3
  rsv2 : r.mask.extractLsb' 23 41 = BitVec.allOnes 41
  /-- No width is used, or W alone by BUILD_TABLE, or both by PARITY_CACHED (30_encoding.md R66). -/
  widths :
    (fieldOp r.pat ∈ [1, 2, 3, 6] ∧
      r.mask.extractLsb' 8 5 = BitVec.allOnes 5 ∧ r.mask.extractLsb' 16 7 = BitVec.allOnes 7) ∨
    (fieldOp r.pat = 4 ∧ r.mask.extractLsb' 8 5 = 0#5 ∧ r.mask.extractLsb' 16 7 = BitVec.allOnes 7) ∨
    (fieldOp r.pat = 5 ∧ r.mask.extractLsb' 8 5 = 0#5 ∧ r.mask.extractLsb' 16 7 = 0#7)

theorem opcodeRows_formed : ∀ r ∈ opcodeRows, r.Formed := by
  simp only [opcodeRows, List.forall_mem_cons]
  refine ⟨?_, ?_, ?_, ?_, ?_, ?_, List.forall_mem_nil _⟩ <;> constructor <;> decide

/-- A row holds for the words without a cause of R69 that have the row's opcode. -/
theorem OpcodeRow.Formed.and_mask_eq_pat_iff {r : OpcodeRow} (h : r.Formed) (c : Word) :
    c &&& r.mask = r.pat ↔ ¬ IllegalCause c ∧ fieldOp c = fieldOp r.pat := by
  obtain ⟨pat, op, rsv0, rsv1, rsv2, widths⟩ := h
  have lt : fieldOp r.pat < 16 := (r.pat.extractLsb' 0 4).isLt
  have op : fieldOp (c &&& r.mask) = fieldOp c := field_and_of_ones op
  have rsv0 : fieldRsv0 (c &&& r.mask) = fieldRsv0 c := field_and_of_ones rsv0
  have rsv1 : fieldRsv1 (c &&& r.mask) = fieldRsv1 c := field_and_of_ones rsv1
  have rsv2 : fieldRsv2 (c &&& r.mask) = fieldRsv2 c := field_and_of_ones rsv2
  rw [pat, eq_enc_iff lt (by decide) (by decide), ← pat, op, rsv0, rsv1, rsv2]
  simp only [IllegalCause, List.mem_cons, List.not_mem_nil, or_false] at widths ⊢
  obtain ⟨opcode, w, n⟩ | ⟨opcode, w, n⟩ | ⟨opcode, w, n⟩ := widths
  · have w : fieldW (c &&& r.mask) = fieldW c := field_and_of_ones w
    have n : fieldN (c &&& r.mask) = fieldN c := field_and_of_ones n
    omega
  · have w : fieldW (c &&& r.mask) = 0 := field_and_of_zeros w
    have n : fieldN (c &&& r.mask) = fieldN c := field_and_of_ones n
    omega
  · have w : fieldW (c &&& r.mask) = 0 := field_and_of_zeros w
    have n : fieldN (c &&& r.mask) = 0 := field_and_of_zeros n
    omega

theorem row_holds_iff {r : OpcodeRow} (hr : r ∈ opcodeRows) (c : Word) :
    c &&& r.mask = r.pat ↔ ¬ IllegalCause c ∧ fieldOp c = fieldOp r.pat :=
  (opcodeRows_formed r hr).and_mask_eq_pat_iff c

theorem row_eq_of_opcode_eq : ∀ r ∈ opcodeRows, ∀ q ∈ opcodeRows, fieldOp r.pat = fieldOp q.pat → r = q := by
  decide

/-- Every command of the opcode map has its row. -/
theorem exists_row_of_commandOf {op w n : Nat} {i : Instr} (h : commandOf op w n = .command i) :
    ∃ r ∈ opcodeRows, r.mnemonic = i.mnemonic ∧ fieldOp r.pat = op := by
  unfold commandOf at h
  split at h <;> cases h <;> simp [opcodeRows, Instr.mnemonic, fieldOp]

theorem exists_row_of_decode {c : Word} {i : Instr} (h : decode c = .command i) :
    ∃ r ∈ opcodeRows, r.mnemonic = i.mnemonic ∧ c &&& r.mask = r.pat := by
  obtain ⟨legal, command⟩ := (decode_eq_command_iff c i).mp h
  obtain ⟨r, hr, name, opcode⟩ := exists_row_of_commandOf command
  exact ⟨r, hr, name, (row_holds_iff hr c).mpr ⟨legal, opcode.symm⟩⟩

end Sys2Proof

namespace Sys2Proof.Machine

/-! ### How a decoded word completes (40_command_cycle.md R78, R79) -/

section
variable {s : State} {n w : Nat}

theorem unitStep_of_illegal {why : Illegal} (busy : s.busy = true) (h : decode s.cmdQ = .illegal why) :
    unitStep s = .next (s.failWith .illegalCommand) := by
  rw [unitStep, if_pos busy, h, execDecoded]

theorem unitStep_of_command {i : Instr} (busy : s.busy = true) (h : decode s.cmdQ = .command i) :
    unitStep s = exec i s := by
  rw [unitStep, if_pos busy, h, execDecoded]

theorem legalW_eq_false_iff : legalW w = false ↔ w = 0 ∨ Config.wMax < w := by
  rw [legalW, decide_eq_false_iff_not]
  omega

theorem legalN_eq_false_iff : legalN n = false ↔ n = 0 ∨ Config.xlen < n := by
  rw [legalN, decide_eq_false_iff_not]
  omega

theorem evalBuildTable_of_invalidWidth (h : legalW w = false) : evalBuildTable w = .err .invalidWidth :=
  if_neg (Bool.eq_false_iff.mp h)

/-- The first three checks of PARITY_CACHED have one error code, so their order does not show (43_cached_parity.md
R99). -/
theorem evalParityCached_of_invalidWidth (h : legalW w = false ∨ legalN n = false ∨ n % w ≠ 0)
    (x : Word) (valid : Bool) (tw : BitVec 5) (t : Table) :
    evalParityCached x n w valid tw t = .err .invalidWidth := by
  unfold evalParityCached
  obtain illegalW | illegalN | indivisible := h
  · rw [if_pos illegalW]
  · rw [if_pos illegalN, ite_self]
  · rw [if_pos indivisible, ite_self, ite_self]

theorem exec_buildTable (w : Nat) (s : State) :
    exec (.buildTable w) s = .next (s.complete (evalBuildTable w)) := rfl

theorem exec_parityCached (n w : Nat) (s : State) :
    exec (.parityCached n w) s =
      .next (s.complete (evalParityCached s.opQ n w s.tableValid s.tableW s.tbl)) := rfl

end

end Sys2Proof.Machine

namespace Sys2Proof.Proofs

open Sys2Proof.Machine

/-- Settles O3: a row holds for the words without a cause of R69 that have the row's opcode. -/
theorem decodeIsTheOpcodeTable : Obligations.DecodeIsTheOpcodeTable := by
  refine ⟨fun c i decodes => ?_, fun c => ?_, fun c r hr q hq rHolds qHolds => ?_⟩
  · obtain ⟨_, command⟩ := (decode_eq_command_iff c i).mp decodes
    exact ⟨exists_row_of_decode decodes, commandOf_widths command⟩
  · rw [decode_illegal_iff]
    constructor
    · intro cause r hr holds
      obtain ⟨legal, _⟩ := (row_holds_iff hr c).mp holds
      exact legal cause
    · intro noRow
      by_contra legal
      obtain ⟨i, decodes⟩ := exists_command_of_legal legal
      obtain ⟨r, hr, _, holds⟩ := exists_row_of_decode decodes
      exact noRow r hr holds
  · obtain ⟨_, rOpcode⟩ := (row_holds_iff hr c).mp rHolds
    obtain ⟨_, qOpcode⟩ := (row_holds_iff hq c).mp qHolds
    exact row_eq_of_opcode_eq r hr q hq (rOpcode.symm.trans qOpcode)

/-- Settles O4: the shifted fields add up; the eight words of R68's table by evaluation. -/
theorem commandWordsOfTheStandardForms : Obligations.CommandWordsOfTheStandardForms :=
  ⟨fun _ _ _ => toNat_enc, by decide⟩

/-- Settles O6: an ILLEGAL word has a cause of R69, and the unit fails it with ILLEGAL_COMMAND. -/
theorem illegalWordsCompleteWithCodeOne : Obligations.IllegalWordsCompleteWithCodeOne := by
  refine fun c => ⟨decode_illegal_iff c, ?_⟩
  rintro ⟨why, illegal⟩ s busy rfl
  exact unitStep_of_illegal busy illegal

/-- Settles O7: the fields hold every width they have bits for, and the first checks of both commands refuse the
widths out of range. -/
theorem outOfRangeWidthsDecodeAndFail : Obligations.OutOfRangeWidthsDecodeAndFail := by
  refine ⟨fun w => decode_enc_buildTable, fun n w => decode_enc_parityCached, ?_, ?_⟩
  · intro s w hw outOfRange busy latched
    have decodes : decode s.cmdQ = .command (.buildTable w) := by rw [latched, decode_enc_buildTable hw]
    have fails := evalBuildTable_of_invalidWidth (legalW_eq_false_iff.mpr outOfRange)
    calc unitStep s
        = exec (.buildTable w) s := unitStep_of_command busy decodes
      _ = .next (s.failWith .invalidWidth) := by rw [exec_buildTable, fails, complete_err]
  · intro s n w hn hw outOfRange busy latched
    have decodes : decode s.cmdQ = .command (.parityCached n w) := by rw [latched, decode_enc_parityCached hn hw]
    have refused : legalW w = false ∨ legalN n = false ∨ n % w ≠ 0 := by
      rwa [legalW_eq_false_iff, legalN_eq_false_iff, or_assoc, or_assoc]
    calc unitStep s
        = exec (.parityCached n w) s := unitStep_of_command busy decodes
      _ = .next (s.failWith .invalidWidth) := by
          rw [exec_parityCached, evalParityCached_of_invalidWidth refused, complete_err]

end Sys2Proof.Proofs
end

section
/-! PROOFS. The command cycle of 40_command_cycle.md: a CMD write accepts or overruns, the completion step is one step
with the outcome of Execute, what a failing completion writes, and that the outcome depends on Execute's arguments
only. -/

namespace Sys2Proof.Machine

open Sys2Proof.Safety

/-! ### The completion step is Execute's outcome (40_command_cycle.md R78, R79) -/

section
variable {s : State}

theorem unitStep_of_idle (idle : s.busy = false) : unitStep s = .next s := if_neg (Bool.eq_false_iff.mp idle)

/-- Every command's own meaning is a completion with the outcome Execute has for its word. -/
theorem exec_eq_complete_execute {c : Word} {i : Instr} (decodes : decode c = .command i) (s : State) :
    exec i s = .next (s.complete (execute c s.opQ s.tableValid s.tableW s.tbl)) := by
  unfold execute
  rw [decodes]
  cases i <;> rfl

theorem execute_of_illegal {c : Word} {why : Illegal} (illegal : decode c = .illegal why)
    (x : Word) (valid : Bool) (tw : BitVec 5) (t : Table) : execute c x valid tw t = .err .illegalCommand := by
  rw [execute, illegal]

theorem unitStep_eq_complete_execute (busy : s.busy = true) :
    unitStep s = .next (s.complete (execute s.cmdQ s.opQ s.tableValid s.tableW s.tbl)) := by
  cases decoded : decode s.cmdQ with
  | illegal why => rw [unitStep_of_illegal busy decoded, execute_of_illegal decoded, complete_err]
  | command i => rw [unitStep_of_command busy decoded, exec_eq_complete_execute decoded]

end

/-- A completion with a non-zero code writes ERR and BUSY only: the other two kinds of completion clear ERR
(40_command_cycle.md R81). -/
theorem complete_of_err_ne_zero {out : ExecResult} {s : State} (failed : (s.complete out).err ≠ 0) :
    s.complete out = { s with err := (s.complete out).err, busy := false } := by
  obtain ⟨v, rfl, _⟩ | ⟨es, w, rfl, _⟩ | ⟨k, rfl, _⟩ := complete_cases out s
  · exact absurd (s.succeedResult_err v) failed
  · exact absurd (s.succeedTable_err es w) failed
  · rfl

/-! ### What a table reads as (10_state.md R34, 42_parity_table.md R95, R96) -/

/-- A specified entry reads as itself, whatever the draw. -/
theorem Table.read_specified (es : List Bit) (d : Nat) {i : Nat} (h : i < es.length) :
    ({ entries := es, draw := d } : Table).read i = es[i] :=
  (List.getElem_eq_getD _).symm

/-- TABLE_READ looks only at the entries below 2^TABLE_W. -/
theorem evalTableRead_congr {tw : BitVec 5} {t u : Table} (alike : ∀ i, i < 2 ^ tw.toNat → t.read i = u.read i)
    (x : Word) (valid : Bool) : evalTableRead x valid tw t = evalTableRead x valid tw u := by
  unfold evalTableRead
  split_ifs with noTable above
  · rfl
  · rfl
  · rw [alike x.toNat (Nat.lt_of_not_le above)]

theorem toNat_tableW_of_legalW {w : Nat} (legal : legalW w = true) : (BitVec.ofNat 5 w).toNat = w := by
  obtain ⟨_, below⟩ : 1 ≤ w ∧ w ≤ Config.wMax := of_decide_eq_true legal
  rw [BitVec.toNat_ofNat, Nat.mod_eq_of_lt (below.trans_lt (by decide))]

/-- Two tables built with one W specify every entry TABLE_READ can look at, so their draws do not show. -/
theorem evalTableRead_built {w : Nat} (legal : legalW w = true) (x : Word) (valid : Bool) (d e : Nat) :
    evalTableRead x valid (BitVec.ofNat 5 w) { entries := builtEntries w, draw := d } =
      evalTableRead x valid (BitVec.ofNat 5 w) { entries := builtEntries w, draw := e } := by
  refine evalTableRead_congr (fun i below => ?_) x valid
  rw [toNat_tableW_of_legalW legal] at below
  rw [read_built w d i below, read_built w e i below]

/-! ### Which commands give a table (42_parity_table.md R97) -/

section
variable {x : Word} {n w w' : Nat} {valid : Bool} {tw : BitVec 5} {t : Table} {es : List Bit}

theorem evalBuildTable_eq_table (h : evalBuildTable w' = .ok (.table es w)) :
    legalW w = true ∧ es = builtEntries w := by
  unfold evalBuildTable at h
  split_ifs at h with legal
  cases h
  exact ⟨legal, rfl⟩

theorem evalTableRead_ne_table : evalTableRead x valid tw t ≠ .ok (.table es w) := by
  unfold evalTableRead
  split_ifs <;> nofun

theorem evalParityCached_ne_table : evalParityCached x n w' valid tw t ≠ .ok (.table es w) := by
  unfold evalParityCached
  split_ifs <;> nofun

/-- A table among Execute's outcomes is one that BUILD_TABLE built with a legal W. -/
theorem execute_eq_table {c : Word} (h : execute c x valid tw t = .ok (.table es w)) :
    legalW w = true ∧ es = builtEntries w := by
  cases decoded : decode c with
  | illegal why =>
    rw [execute_of_illegal decoded] at h
    cases h
  | command i =>
    rw [execute, decoded] at h
    cases i with
    | buildTable w' => exact evalBuildTable_eq_table h
    | tableRead => exact absurd h evalTableRead_ne_table
    | parityCached n w' => exact absurd h evalParityCached_ne_table
    | countBits | parity | parityFast => cases h

end

end Sys2Proof.Machine

namespace Sys2Proof.Proofs

open Sys2Proof.Machine Sys2Proof.Safety

/-- Settles O44: the access is a write of CMD, which an idle unit accepts. -/
theorem idleCmdWriteIsAccepted : Obligations.IdleCmdWriteIsAccepted := by
  intro s c idle
  calc busAccess (.write (Config.unitBase + Reg.cmd.offset) 8 c) s
      = (some okayWrite, writeReg .cmd c s) := busAccess_write_offset .cmd c s
    _ = (some okayWrite, s.accept c) := by rw [writeReg_cmd_of_idle idle]

/-- Settles O45: the access is a write of CMD, which overruns a busy unit. -/
theorem busyCmdWriteIsDropped : Obligations.BusyCmdWriteIsDropped := by
  intro s c busy
  calc busAccess (.write (Config.unitBase + Reg.cmd.offset) 8 c) s
      = (some okayWrite, writeReg .cmd c s) := busAccess_write_offset .cmd c s
    _ = (some okayWrite, s.overrun) := by rw [writeReg_cmd_of_busy busy]

/-- Settles O26: the unit's step is the completion with Execute's outcome, whose writes are given for each outcome. -/
theorem completionAppliesExecute : Obligations.CompletionAppliesExecute := by
  refine fun s => ⟨unitStep_of_idle, fun busy => ?_⟩
  have completes := unitStep_eq_complete_execute busy
  refine ⟨completes, fun v outcome => ?_, fun k outcome => ?_, fun es w outcome => ?_⟩ <;> rw [outcome] at completes
  · exact completes
  · exact completes
  · exact ⟨s.succeedTable es w, completes, rfl, fun i => Table.read_specified es s.draws⟩

/-- Settles O28: the unit's step is a completion, and one that leaves a code is an error's. -/
theorem failureWritesOnlyErrAndBusy : Obligations.FailureWritesOnlyErrAndBusy := by
  intro s t busy steps failed
  obtain ⟨out, completes⟩ := unitStep_of_busy busy
  cases completes.symm.trans steps
  exact complete_of_err_ne_zero failed

/-- Settles O29: both steps complete with one outcome of Execute. A RESULT or a code leaves the table as it was, and a
new table is a built one, which reads alike under every draw. -/
theorem completionIsDeterministic : Obligations.CompletionIsDeterministic := by
  rintro s r sBusy rBusy word operand ⟨tbl, valid, width⟩
  have sCompletes := unitStep_eq_complete_execute sBusy
  have rCompletes := unitStep_eq_complete_execute rBusy
  rw [← word, ← operand, ← tbl, ← valid, ← width] at rCompletes
  have kept : ∀ x, evalTableRead x s.tableValid s.tableW s.tbl = evalTableRead x r.tableValid r.tableW r.tbl := by
    simp only [tbl, valid, width, implies_true]
  refine ⟨_, _, sCompletes, rCompletes, ?_⟩
  cases outcome : execute s.cmdQ s.opQ s.tableValid s.tableW s.tbl with
  | err k => exact ⟨rfl, .inl ⟨rfl, rfl⟩, valid, width, kept⟩
  | ok writes =>
    cases writes with
    | result v => exact ⟨rfl, .inr rfl, valid, width, kept⟩
    | table es w =>
      obtain ⟨legal, rfl⟩ := execute_eq_table outcome
      exact ⟨rfl, .inl ⟨rfl, rfl⟩, rfl, rfl, fun x => evalTableRead_built legal x true s.draws r.draws⟩

end Sys2Proof.Proofs
end

section
/-! PROOFS. Bit count and parity of 41_bit_count_parity.md: what the three loops compute, the words of the three
commands, that none of them reads or writes the table, and the statements on them. -/

namespace Sys2Proof

/-! ### The word of a command without widths (30_encoding.md R67) -/

theorem row_eq_of_mnemonic_eq : ∀ r ∈ opcodeRows, ∀ q ∈ opcodeRows, r.mnemonic = q.mnemonic → r = q := by
  decide

/-- A row whose mask is all ones leaves its command one word, the row's match. -/
theorem decode_eq_command_iff_eq_pat {r : OpcodeRow} {i : Instr} (hr : r ∈ opcodeRows)
    (fixed : r.mask = BitVec.allOnes 64) (name : r.mnemonic = i.mnemonic) (decodes : decode r.pat = .command i)
    (c : Word) : decode c = .command i ↔ c = r.pat := by
  constructor
  · intro command
    obtain ⟨q, hq, qName, holds⟩ := exists_row_of_decode command
    obtain rfl := row_eq_of_mnemonic_eq q hq r hr (qName.trans name.symm)
    rwa [fixed, BitVec.and_allOnes] at holds
  · rintro rfl
    exact decodes

end Sys2Proof

namespace Sys2Proof.Machine

open Sys2Proof.Safety

/-! ### COUNT_BITS counts the 1 bits (41_bit_count_parity.md R90) -/

theorem toNat_ushiftRight_one_lt {k : Nat} {v : Word} (h : v.toNat < 2 ^ (k + 1)) : (v >>> 1).toNat < 2 ^ k := by
  rw [BitVec.toNat_ushiftRight, Nat.shiftRight_eq_div_pow]
  omega

/-- The count of a value of at most `k` bits adds up its 1 bits. -/
theorem countLoop_eq (k : Nat) (v : Word) (c : Nat) (h : v.toNat < 2 ^ k) : countLoop k v c = c + lowCount k v := by
  induction k generalizing v c with
  | zero => rfl
  | succ k ih =>
    rw [countLoop]
    split_ifs with zero
    · simp [zero]
    · rw [ih _ _ (toNat_ushiftRight_one_lt h), lowCount_succ, Nat.add_assoc]

theorem evalCountBits_eq (x : Word) : evalCountBits x = .ok (.result (BitVec.ofNat 64 (popcount x))) := by
  rw [evalCountBits, countLoop_eq 64 x 0 x.isLt, Nat.zero_add, popcount_eq_lowCount]

/-! ### PARITY_FAST erases one 1 bit a round (41_bit_count_parity.md R92) -/

section
variable {v : Word}

theorem toNat_and_one_eq_mod (v : Word) : (v &&& 1).toNat = v.toNat % 2 := Nat.and_one_is_mod _

/-- `v` and `v - 1` differ in bit 0. -/
theorem erase_even (v : Word) : (v &&& (v - 1)).toNat % 2 = 0 := by
  rw [← Nat.mod_two_ne_one, BitVec.toNat_and, Ne, Nat.and_mod_two_eq_one]
  bv_omega

theorem erase_ushiftRight_of_odd (odd : v.toNat % 2 = 1) : (v &&& (v - 1)) >>> 1 = v >>> 1 := by
  have pred : (v - 1) >>> 1 = v >>> 1 := by bv_omega
  rw [BitVec.ushiftRight_and_distrib, pred, BitVec.and_self]

theorem erase_ushiftRight_of_even (nonzero : v ≠ 0) (even : v.toNat % 2 = 0) :
    (v &&& (v - 1)) >>> 1 = (v >>> 1) &&& ((v >>> 1) - 1) := by
  have pred : (v - 1) >>> 1 = (v >>> 1) - 1 := by bv_omega
  rw [BitVec.ushiftRight_and_distrib, pred]

/-- `v &&& (v - 1)` has one 1 bit less than `v`: with bit 0 set that bit goes, else the question is that of the bits
above it. -/
theorem lowCount_erase (k : Nat) (v : Word) (nonzero : v ≠ 0) (h : v.toNat < 2 ^ k) :
    lowCount k (v &&& (v - 1)) + 1 = lowCount k v := by
  induction k generalizing v with
  | zero => bv_omega
  | succ k ih =>
    rw [lowCount_succ, lowCount_succ k v, toNat_and_one_eq_mod, toNat_and_one_eq_mod, erase_even]
    obtain even | odd := Nat.mod_two_eq_zero_or_one v.toNat
    · have shifted : v >>> 1 ≠ 0 := by bv_omega
      have rest := ih (v >>> 1) shifted (toNat_ushiftRight_one_lt h)
      rw [erase_ushiftRight_of_even nonzero even, even, Nat.add_assoc, rest]
    · rw [erase_ushiftRight_of_odd odd, odd, Nat.zero_add, Nat.add_comm]

theorem popcount_erase (nonzero : v ≠ 0) : popcount (v &&& (v - 1)) + 1 = popcount v :=
  lowCount_erase 64 v nonzero v.isLt

end

theorem popcount_zero : popcount 0 = 0 := lowCount_zero_word 64

/-- One flip of the parity counts one. -/
theorem xor_one_eq_add_one : ∀ p : Bit, p ^^^ 1 = p + 1 := by decide

/-- Every round erases one 1 bit, so as many rounds as there are 1 bits give the parity. -/
theorem parityFastLoop_eq (k : Nat) (v : Word) (p : Bit) (h : popcount v ≤ k) :
    parityFastLoop k v p = p + BitVec.ofNat 1 (popcount v) := by
  induction k generalizing v p with
  | zero => rw [parityFastLoop, Nat.le_zero.mp h, BitVec.add_zero]
  | succ k ih =>
    rw [parityFastLoop]
    split_ifs with zero
    · rw [zero, popcount_zero, BitVec.add_zero]
    · have erased := popcount_erase zero
      have fuel : popcount (v &&& (v - 1)) ≤ k := by omega
      rw [ih _ _ fuel, xor_one_eq_add_one, ← erased, BitVec.ofNat_add, BitVec.add_assoc, BitVec.add_comm 1]
      rfl

/-! ### PARITY and PARITY_FAST give the parity (41_bit_count_parity.md R91, R92) -/

/-- RESULT can hold every count (41_bit_count_parity.md R90). -/
theorem toNat_ofNat_of_le {n : Nat} (h : n ≤ 64) : (BitVec.ofNat 64 n).toNat = n := by
  rw [BitVec.toNat_ofNat]
  omega

theorem zextBit_ofNat (n : Nat) : zextBit (BitVec.ofNat 1 n) = BitVec.ofNat 64 (n % 2) := by
  apply BitVec.eq_of_toNat_eq
  simp [zextBit]

theorem evalParity_eq (x : Word) : evalParity x = .ok (.result (BitVec.ofNat 64 (popcount x % 2))) := by
  rw [evalParity, parityScan_eq, parityOf, zextBit_ofNat, Nat.mod_mod]

theorem evalParityFast_eq (x : Word) : evalParityFast x = .ok (.result (BitVec.ofNat 64 (popcount x % 2))) := by
  rw [evalParityFast, parityFastLoop_eq 64 x 0 (popcount_le x), BitVec.ofNat_eq_ofNat, BitVec.zero_add, zextBit_ofNat]

/-! ### How the three commands complete (40_command_cycle.md R78) -/

section
variable (s : State)

theorem exec_countBits : exec .countBits s = .next (s.succeedResult (BitVec.ofNat 64 (popcount s.opQ))) := by
  rw [exec, execCountBits, evalCountBits_eq, complete_ok_result]

theorem exec_parity : exec .parity s = .next (s.succeedResult (BitVec.ofNat 64 (popcount s.opQ % 2))) := by
  rw [exec, execParity, evalParity_eq, complete_ok_result]

theorem exec_parityFast : exec .parityFast s = .next (s.succeedResult (BitVec.ofNat 64 (popcount s.opQ % 2))) := by
  rw [exec, execParityFast, evalParityFast_eq, complete_ok_result]

end

/-- A naive command writes a RESULT that is a function of OP_Q (41_bit_count_parity.md R94). -/
theorem exec_naive {i : Instr} (naive : i ∈ [Instr.countBits, .parity, .parityFast]) :
    ∃ f : Word → Word, ∀ s : State, exec i s = .next (s.succeedResult (f s.opQ)) := by
  simp only [List.mem_cons, List.not_mem_nil, or_false] at naive
  obtain rfl | rfl | rfl := naive
  · exact ⟨fun x => BitVec.ofNat 64 (popcount x), exec_countBits⟩
  · exact ⟨fun x => BitVec.ofNat 64 (popcount x % 2), exec_parity⟩
  · exact ⟨fun x => BitVec.ofNat 64 (popcount x % 2), exec_parityFast⟩

/-! ### What the commands that read the table give (42_parity_table.md R96, 43_cached_parity.md R99) -/

/-- An outcome that is a RESULT, or an error with a code other than 0. -/
def ResultOrCode (out : ExecResult) : Prop :=
  (∃ v, out = .ok (.result v)) ∨ ∃ k, errCode k ≠ 0 ∧ out = .err k

section
variable (x : Word) (n w : Nat) (valid : Bool) (tw : BitVec 5) (t : Table)

theorem evalTableRead_resultOrCode : ResultOrCode (evalTableRead x valid tw t) := by
  unfold evalTableRead
  split_ifs
  · exact .inr ⟨.tableInvalid, by decide, rfl⟩
  · exact .inr ⟨.indexRange, by decide, rfl⟩
  · exact .inl ⟨_, rfl⟩

theorem evalParityCached_resultOrCode : ResultOrCode (evalParityCached x n w valid tw t) := by
  unfold evalParityCached
  split_ifs
  · exact .inr ⟨.invalidWidth, by decide, rfl⟩
  · exact .inr ⟨.invalidWidth, by decide, rfl⟩
  · exact .inr ⟨.invalidWidth, by decide, rfl⟩
  · exact .inr ⟨.tableInvalid, by decide, rfl⟩
  · exact .inr ⟨.invalidWidth, by decide, rfl⟩
  · exact .inr ⟨.inputRange, by decide, rfl⟩
  · exact .inl ⟨_, rfl⟩

end

/-- Such an outcome leaves the same code in any two states, and the same RESULT where the code is 0. -/
theorem ResultOrCode.complete_agree {out : ExecResult} (h : ResultOrCode out) (a b : State) :
    (a.complete out).err = (b.complete out).err ∧
      ((a.complete out).err = 0 → (a.complete out).result = (b.complete out).result) := by
  obtain ⟨v, rfl⟩ | ⟨k, nonzero, rfl⟩ := h
  · exact ⟨rfl, fun _ => rfl⟩
  · exact ⟨rfl, fun clear => absurd clear nonzero⟩

/-- A command that reads the table completes alike from every state with the same OP_Q and table. -/
theorem exec_tableReader {j : Instr} (reads : j = .tableRead ∨ ∃ n w, j = .parityCached n w) (s : State) :
    ∃ out, ResultOrCode out ∧
      ∀ r : State, r.opQ = s.opQ → sameTable r s → exec j r = .next (r.complete out) := by
  obtain rfl | ⟨n, w, rfl⟩ := reads
  · refine ⟨_, evalTableRead_resultOrCode s.opQ s.tableValid s.tableW s.tbl, ?_⟩
    rintro r operand ⟨tbl, valid, width⟩
    rw [← operand, ← tbl, ← valid, ← width, exec, execTableRead]
  · refine ⟨_, evalParityCached_resultOrCode s.opQ n w s.tableValid s.tableW s.tbl, ?_⟩
    rintro r operand ⟨tbl, valid, width⟩
    rw [← operand, ← tbl, ← valid, ← width, exec_parityCached]

end Sys2Proof.Machine

namespace Sys2Proof.Proofs

open Sys2Proof.Machine Sys2Proof.Safety

/-- Settles O8: the count loop adds up the 1 bits, and the word's row has a mask of all ones. -/
theorem countBitsWritesThePopcount : Obligations.CountBitsWritesThePopcount :=
  ⟨fun s => ⟨popcount_le s.opQ, exec_countBits s⟩,
    decode_eq_command_iff_eq_pat (r := opcodeRows[0]) (by decide) rfl rfl (by decide)⟩

/-- Settles O9: the bit scan gives the parity, and the word's row has a mask of all ones. -/
theorem parityWritesTheParity : Obligations.ParityWritesTheParity :=
  ⟨exec_parity, decode_eq_command_iff_eq_pat (r := opcodeRows[1]) (by decide) rfl rfl (by decide)⟩

/-- Settles O10: erasing a 1 bit a round gives the parity, and the word's row has a mask of all ones. -/
theorem parityFastWritesTheParity : Obligations.ParityFastWritesTheParity :=
  ⟨exec_parityFast, decode_eq_command_iff_eq_pat (r := opcodeRows[2]) (by decide) rfl rfl (by decide)⟩

/-- Settles O11: both parities complete with popcount mod 2, and no popcount is too great for RESULT. -/
theorem naiveCommandsAgree : Obligations.NaiveCommandsAgree := by
  intro s
  refine ⟨_, _, exec_parity s, exec_parityFast s, exec_countBits s, ?_⟩
  have count := popcount_le s.opQ
  have parity := (Nat.mod_le (popcount s.opQ) 2).trans count
  simp only [State.succeedResult_result, toNat_ofNat_of_le count, toNat_ofNat_of_le parity, and_self]

/-- Settles O12: a naive command writes a RESULT from OP_Q alone, so a later command that reads the table finds the
same operand and table with it as without it. -/
theorem naiveCommandsIgnoreTheTable : Obligations.NaiveCommandsIgnoreTheTable := by
  intro i naive s
  obtain ⟨f, completes⟩ := exec_naive naive
  refine ⟨s.succeedResult (f s.opQ), completes s, ⟨rfl, rfl, rfl⟩, fun r operand => ?_, fun j x reads => ?_⟩
  · exact ⟨_, completes r, congrArg f operand, rfl⟩
  · obtain ⟨out, outcome, exec_j⟩ := exec_tableReader reads { s with opQ := x }
    exact ⟨_, _, exec_j _ rfl ⟨rfl, rfl, rfl⟩, exec_j _ rfl ⟨rfl, rfl, rfl⟩, outcome.complete_agree _ _⟩

end Sys2Proof.Proofs
end

section
/-! PROOFS. The parity table of 42_parity_table.md: how BUILD_TABLE and TABLE_READ complete, which words are theirs,
which steps keep the table, and the statements on them. -/

namespace Sys2Proof

/-! ### The words of BUILD_TABLE (30_encoding.md R66, R67) -/

theorem fieldW_le (c : Word) : fieldW c ≤ 31 := Nat.le_of_lt_succ (c.extractLsb' 8 5).isLt

theorem commandOf_eq_buildTable {op w' n w : Nat} (h : commandOf op w' n = .command (.buildTable w)) :
    op = 4 ∧ w' = w := by
  unfold commandOf at h
  split at h <;> cases h
  exact ⟨rfl, rfl⟩

/-- A word of BUILD_TABLE has no reserved bit and no N field set, so its opcode and W determine it. -/
theorem decode_eq_buildTable_iff (c : Word) (w : Nat) :
    decode c = .command (.buildTable w) ↔ w ≤ 31 ∧ c = enc 4 w 0 := by
  constructor
  · intro decodes
    obtain ⟨legal, command⟩ := (decode_eq_command_iff c _).mp decodes
    obtain ⟨opcode, rfl⟩ := commandOf_eq_buildTable command
    refine ⟨fieldW_le c, (eq_enc_iff (by decide) (fieldW_le c) (by decide)).mpr ?_⟩
    unfold IllegalCause at legal
    omega
  · rintro ⟨fits, rfl⟩
    exact decode_enc_buildTable fits

end Sys2Proof

namespace Sys2Proof.Machine

open Sys2Proof.Safety

/-! ### How BUILD_TABLE and TABLE_READ complete (42_parity_table.md R95, R96) -/

theorem exec_buildTable_of_legal {w : Nat} (legal : legalW w = true) (s : State) :
    exec (.buildTable w) s = .next (s.succeedTable (builtEntries w) w) := by
  rw [exec_buildTable, evalBuildTable, if_pos legal, complete_ok_table]

theorem exec_buildTable_of_illegal {w : Nat} (illegal : legalW w = false) (s : State) :
    exec (.buildTable w) s = .next (s.failWith .invalidWidth) := by
  rw [exec_buildTable, evalBuildTable_of_invalidWidth illegal, complete_err]

section
variable {s : State}

theorem exec_tableRead_of_index (valid : s.tableValid = true) (below : s.opQ.toNat < 2 ^ s.tableW.toNat) :
    exec .tableRead s = .next (s.succeedResult (zextBit (s.tbl.read s.opQ.toNat))) := by
  rw [exec, execTableRead, evalTableRead, if_neg (by simp [valid]), if_neg (Nat.not_le_of_lt below),
    complete_ok_result]

theorem exec_tableRead_of_noTable (invalid : s.tableValid = false) :
    exec .tableRead s = .next (s.failWith .tableInvalid) := by
  rw [exec, execTableRead, evalTableRead, if_pos invalid, complete_err]

theorem exec_tableRead_of_indexRange (valid : s.tableValid = true) (above : 2 ^ s.tableW.toNat ≤ s.opQ.toNat) :
    exec .tableRead s = .next (s.failWith .indexRange) := by
  rw [exec, execTableRead, evalTableRead, if_neg (by simp [valid]), if_pos above, complete_err]

end

/-! ### What keeps the table (42_parity_table.md R97) -/

/-- A word that is no BUILD_TABLE with a legal W writes no table. -/
theorem execute_ne_table {c : Word} (builds : buildsTable c = false) (x : Word) (valid : Bool) (tw : BitVec 5)
    (t : Table) (es : List Bit) (w : Nat) : execute c x valid tw t ≠ .ok (.table es w) := by
  cases decoded : decode c with
  | illegal why =>
    rw [execute_of_illegal decoded]
    nofun
  | command i =>
    rw [execute, decoded]
    cases i with
    | buildTable w' =>
      have illegal : legalW w' = false := by rwa [buildsTable, decoded] at builds
      exact (evalBuildTable_of_invalidWidth illegal).trans_ne nofun
    | tableRead => exact evalTableRead_ne_table
    | parityCached n w' => exact evalParityCached_ne_table
    | countBits | parity | parityFast => nofun

section
variable {s t : State}

theorem complete_sameTable {out : ExecResult} (noTable : ∀ es w, out ≠ .ok (.table es w)) :
    sameTable (s.complete out) s := by
  obtain ⟨v, rfl, _⟩ | ⟨es, w, table, _⟩ | ⟨k, rfl, _⟩ := complete_cases out s
  · exact ⟨rfl, rfl, rfl⟩
  · exact absurd table (noTable es w)
  · exact ⟨rfl, rfl, rfl⟩

/-- The unit's step keeps the table, unless it completes a word that builds one. -/
theorem unitStep_sameTable (steps : unitStep s = .next t) (keeps : (s.busy && buildsTable s.cmdQ) = false) :
    sameTable t s := by
  cases busy : s.busy with
  | false =>
    cases (unitStep_of_idle busy).symm.trans steps
    exact ⟨rfl, rfl, rfl⟩
  | true =>
    have builds : buildsTable s.cmdQ = false := by rwa [busy, Bool.true_and] at keeps
    cases (unitStep_eq_complete_execute busy).symm.trans steps
    exact complete_sameTable (execute_ne_table builds _ _ _ _)

/-- No register write reaches the table (20_memory.md R47). -/
theorem writeReg_sameTable (r : Reg) (v : Word) (s : State) : sameTable (writeReg r v s) s := by
  obtain h | ⟨_, h⟩ | ⟨_, _, h⟩ | ⟨_, _, h⟩ | ⟨_, _, h⟩ := writeReg_cases r v s <;> rw [h] <;> exact ⟨rfl, rfl, rfl⟩

theorem hostStep_sameTable (k : Nat) (s : State) : sameTable (hostStep k s) s := by
  obtain ⟨ms, h⟩ | ⟨r, v, ms, h⟩ := hostStep_state k s <;> rw [h]
  · exact ⟨rfl, rfl, rfl⟩
  · exact writeReg_sameTable r v s

/-! ### Which next steps change the table, by the turn that is due (42_parity_table.md R97) -/

theorem nextChangesTable_of_reset {rest : List Turn} (due : s.turns = .reset :: rest) :
    nextChangesTable s = true := by
  rw [nextChangesTable, nextIsReset, due, Bool.true_or]

theorem nextChangesTable_of_unit {rest : List Turn} (due : s.turns = .unit :: rest) :
    nextChangesTable s = (s.busy && buildsTable s.cmdQ) := by
  rw [nextChangesTable, nextIsReset, nextIsCompletion, due, Bool.false_or]

theorem nextChangesTable_of_noTurn (due : s.turns = []) :
    nextChangesTable s = (s.busy && buildsTable s.cmdQ) := by
  rw [nextChangesTable, nextIsReset, nextIsCompletion, due, Bool.false_or]

/-- Only reset and the successful completion of BUILD_TABLE change the table. -/
theorem step_sameTable (steps : step s = .next t) (keeps : nextChangesTable s = false) : sameTable t s := by
  obtain ⟨_, stuck⟩ | ⟨_, agent⟩ := step_cases s
  · cases stuck.symm.trans steps
  obtain ⟨k, rest, _, h⟩ | ⟨rest, due, h⟩ | ⟨rest, due, _⟩ | ⟨due, _, h⟩ | ⟨k, _, _, h⟩ | ⟨_, _, h⟩ := agent
  · cases h.symm.trans steps
    exact hostStep_sameTable k { s with turns := rest }
  · rw [nextChangesTable_of_unit due] at keeps
    exact unitStep_sameTable (s := { s with turns := rest }) (h.symm.trans steps) keeps
  · exact absurd ((nextChangesTable_of_reset due).symm.trans keeps) (by decide)
  · rw [nextChangesTable_of_noTurn due] at keeps
    exact unitStep_sameTable (h.symm.trans steps) keeps
  · cases h.symm.trans steps
    exact hostStep_sameTable k s
  · cases h.symm.trans steps
    exact ⟨rfl, rfl, rfl⟩

end

/-- What every step from a state with `G` keeps, a run keeps whose steps all start in states with `G`. -/
theorem run_keeps_while {G P : State → Prop} (kept : ∀ s t, G s → P s → step s = .next t → P t) {k : Nat} {s t : State}
    (runs : Host.Core.run Sys2Proof.core k s = .next t)
    (along : ∀ j u, j < k → Host.Core.run Sys2Proof.core j s = .next u → G u) (start : P s) : P t := by
  induction k generalizing s with
  | zero =>
    have same : s = t := Host.Outcome.next.inj runs
    exact same ▸ start
  | succ k ih =>
    obtain ⟨s', first, rest⟩ := run_succ_inv runs
    have here : G s := along 0 s (Nat.succ_pos k) rfl
    refine ih rest (fun j u below reaches => ?_) (kept s s' here start first)
    exact along (j + 1) u (Nat.succ_lt_succ below) ((run_next first).trans reaches)

theorem sameTable_trans {a b c : State} (ab : sameTable a b) (bc : sameTable b c) : sameTable a c := by
  obtain ⟨tbl, valid, width⟩ := ab
  obtain ⟨tbl', valid', width'⟩ := bc
  exact ⟨tbl.trans tbl', valid.trans valid', width.trans width'⟩

end Sys2Proof.Machine

namespace Sys2Proof.Proofs

open Sys2Proof.Machine Sys2Proof.Safety

/-- Settles O13: a legal W completes with the built entries, each the parity of its index, and any other W fails; the
word is determined by its opcode and W. -/
theorem buildTableWritesTheParities : Obligations.BuildTableWritesTheParities := by
  refine ⟨fun s w pos le => ?_, fun s w outOfRange => ?_, decode_eq_buildTable_iff⟩
  · have legal : legalW w = true := decide_eq_true ⟨pos, le⟩
    exact ⟨s.succeedTable (builtEntries w) w, exec_buildTable_of_legal legal s,
      fun i below => read_built w s.draws i below, rfl, toNat_tableW_of_legalW legal⟩
  · exact exec_buildTable_of_illegal (legalW_eq_false_iff.mpr outOfRange) s

/-- Settles O15: the checks of R96 in their order, and the word's row has a mask of all ones. -/
theorem tableReadReturnsTheEntry : Obligations.TableReadReturnsTheEntry :=
  ⟨fun _ => exec_tableRead_of_index, fun _ => exec_tableRead_of_noTable, fun _ => exec_tableRead_of_indexRange,
    decode_eq_command_iff_eq_pat (r := opcodeRows[5]) (by decide) rfl rfl (by decide)⟩

/-- Settles O17: the table is kept step by step along the run, and the outcome of TABLE_READ is a function of the
table and the index. -/
theorem onlyBuildAndResetChangeTheTable : Obligations.OnlyBuildAndResetChangeTheTable := by
  refine ⟨fun s t => step_sameTable, fun k s t runs along x => ?_⟩
  obtain ⟨tbl, valid, width⟩ : sameTable t s :=
    run_keeps_while (P := (sameTable · s))
      (fun a b quiet same steps => sameTable_trans (step_sameTable steps quiet) same) runs along ⟨rfl, rfl, rfl⟩
  rw [tbl, valid, width]

end Sys2Proof.Proofs
end

section
/-! PROOFS. Cached parity of 43_cached_parity.md: the words of PARITY_CACHED, the sub-words it looks up, the order of
the XORs, the parity of the lanes, how the command completes, and the statements on it. -/

namespace Sys2Proof

/-! ### The words of PARITY_CACHED (30_encoding.md R66, R67) -/

theorem fieldN_le (c : Word) : fieldN c ≤ 127 := Nat.le_of_lt_succ (c.extractLsb' 16 7).isLt

theorem commandOf_eq_parityCached {op w' n' n w : Nat} (h : commandOf op w' n' = .command (.parityCached n w)) :
    op = 5 ∧ w' = w ∧ n' = n := by
  unfold commandOf at h
  split at h <;> cases h
  exact ⟨rfl, rfl, rfl⟩

/-- A word of PARITY_CACHED has no reserved bit set, so its opcode, W and N determine it. -/
theorem decode_eq_parityCached_iff (c : Word) (n w : Nat) :
    decode c = .command (.parityCached n w) ↔ n ≤ 127 ∧ w ≤ 31 ∧ c = enc 5 w n := by
  constructor
  · intro decodes
    obtain ⟨legal, command⟩ := (decode_eq_command_iff c _).mp decodes
    obtain ⟨opcode, rfl, rfl⟩ := commandOf_eq_parityCached command
    refine ⟨fieldN_le c, fieldW_le c, (eq_enc_iff (by decide) (fieldW_le c) (fieldN_le c)).mpr ?_⟩
    unfold IllegalCause at legal
    omega
  · rintro ⟨nFits, wFits, rfl⟩
    exact decode_enc_parityCached nFits wFits

end Sys2Proof

namespace Sys2Proof.Machine

open Sys2Proof.Safety

/-! ### The sub-words (43_cached_parity.md R99, R100) -/

section
variable (x : Word) (w : Nat)

theorem subWord_eq_div_mod (shift : Nat) : subWord x shift w = x.toNat / 2 ^ shift % 2 ^ w := by
  rw [subWord, maskOf, Nat.and_two_pow_sub_one_eq_mod, Nat.shiftRight_eq_div_pow]

theorem subWord_eq_laneOf (k : Nat) : subWord x (w * k) w = laneOf x w k := by
  rw [subWord, maskOf, Nat.and_two_pow_sub_one_eq_mod, laneOf, BitVec.extractLsb'_toNat]

theorem laneOf_lt (k : Nat) : laneOf x w k < 2 ^ w := (x.extractLsb' (w * k) w).isLt

end

theorem getLsbD_eq_false_of_toNat_lt {v : Word} {n i : Nat} (h : v.toNat < 2 ^ n) (le : n ≤ i) :
    v.getLsbD i = false := by
  rw [← BitVec.testBit_toNat, Nat.testBit_lt_two_pow (h.trans_le (Nat.pow_le_pow_right (by decide) le))]

/-! ### XORs in any order and shape (43_cached_parity.md R103) -/

/-- The XOR of a list of table entries. -/
def xorBits (bs : List Bit) : Bit := bs.foldr (· ^^^ ·) 0

theorem xorBits_singleton (b : Bit) : xorBits [b] = b := BitVec.xor_zero

theorem xorBits_append (bs cs : List Bit) : xorBits (bs ++ cs) = xorBits bs ^^^ xorBits cs := by
  induction bs with
  | nil => exact BitVec.zero_xor.symm
  | cons b bs ih =>
    calc b ^^^ xorBits (bs ++ cs)
        = b ^^^ (xorBits bs ^^^ xorBits cs) := by rw [ih]
      _ = (b ^^^ xorBits bs) ^^^ xorBits cs := (BitVec.xor_assoc ..).symm

theorem xorBits_perm {bs cs : List Bit} (h : bs.Perm cs) : xorBits bs = xorBits cs := h.foldr_op_eq

/-- The look-ups of the lanes in the list, XORed. -/
def lookUps (t : Table) (x : Word) (w : Nat) (ks : List Nat) : Bit := xorBits (ks.map fun k => t.read (laneOf x w k))

section
variable (t : Table) (x : Word) (w : Nat)

theorem lookUps_perm {ks ls : List Nat} (h : ks.Perm ls) : lookUps t x w ks = lookUps t x w ls :=
  xorBits_perm (h.map _)

theorem lookUps_append (ks ls : List Nat) : lookUps t x w (ks ++ ls) = lookUps t x w ks ^^^ lookUps t x w ls := by
  rw [lookUps, List.map_append, xorBits_append, lookUps, lookUps]

theorem lookUps_singleton (k : Nat) : lookUps t x w [k] = t.read (laneOf x w k) := xorBits_singleton _

/-- A tree's value is that of the list of its leaves. -/
theorem value_eq_lookUps (tree : CombineTree) : tree.value t x w = lookUps t x w tree.lanes := by
  induction tree with
  | lane k => exact (lookUps_singleton t x w k).symm
  | node l r left right => rw [CombineTree.value, CombineTree.lanes, lookUps_append, left, right]

/-- The loop XORs the entries of the sub-words (43_cached_parity.md R99). -/
theorem cachedLoop_eq_xorBits (lanes : Nat) :
    cachedLoop t x w lanes =
      xorBits ((List.range lanes).map fun j => t.read (subWord x (w * (lanes - 1 - j)) w)) := by
  rw [xorBits, ← List.foldl_eq_foldr, List.foldl_map, cachedLoop]

/-- The loop visits the lanes from the most significant down to lane 0 (43_cached_parity.md R99, R100). -/
theorem cachedLoop_eq_lookUps (lanes : Nat) : cachedLoop t x w lanes = lookUps t x w (List.range lanes) := by
  have downwards : (List.range lanes).map (lanes - 1 - ·) = (List.range lanes).reverse := by
    rw [List.range_eq_range', List.reverse_range', Nat.zero_add, List.range_eq_range']
  calc cachedLoop t x w lanes
      = lookUps t x w ((List.range lanes).map (lanes - 1 - ·)) := by
        simp only [cachedLoop_eq_xorBits, subWord_eq_laneOf, lookUps, List.map_map, Function.comp_def]
    _ = lookUps t x w (List.range lanes) := by
        rw [downwards, lookUps_perm t x w (List.reverse_perm _)]

end

/-! ### The parities of the lanes add up to the parity of the operand (43_cached_parity.md R102) -/

theorem lowCount_add (a b : Nat) (v : Word) : lowCount (a + b) v = lowCount a v + lowCount b (v >>> a) := by
  unfold lowCount
  rw [List.range_add, List.countP_append, List.countP_map]
  simp only [Function.comp_def, BitVec.getLsbD_ushiftRight]

theorem lowCount_congr {k : Nat} {u v : Word} (h : ∀ i, i < k → u.getLsbD i = v.getLsbD i) :
    lowCount k u = lowCount k v :=
  List.countP_congr fun i below => by rw [h i (List.mem_range.mp below)]

/-- A value below 2^k has all its 1 bits among the low `k`. -/
theorem popcount_eq_lowCount_of_lt {k : Nat} {v : Word} (le : k ≤ 64) (h : v.toNat < 2 ^ k) :
    popcount v = lowCount k v := by
  obtain ⟨m, total⟩ := Nat.exists_eq_add_of_le le
  have above : v >>> k = 0#64 := by
    apply BitVec.eq_of_toNat_eq
    rw [BitVec.toNat_ushiftRight, Nat.shiftRight_eq_div_pow, Nat.div_eq_of_lt h, BitVec.toNat_zero]
  rw [popcount_eq_lowCount, total, lowCount_add, above, lowCount_zero_word, Nat.add_zero]

/-- The 1 bits of a lane are those of the operand at the lane's place. -/
theorem popcount_laneOf {w : Nat} (le : w ≤ 64) (x : Word) (k : Nat) :
    popcount (BitVec.ofNat 64 (laneOf x w k)) = lowCount w (x >>> (w * k)) := by
  have small : (BitVec.ofNat 64 (laneOf x w k)).toNat < 2 ^ w := (Nat.mod_le _ _).trans_lt (laneOf_lt x w k)
  rw [popcount_eq_lowCount_of_lt le small]
  refine lowCount_congr fun i below => ?_
  rw [laneOf, BitVec.ofNat_toNat, BitVec.getLsbD_setWidth, BitVec.getLsbD_extractLsb', BitVec.getLsbD_ushiftRight,
    decide_eq_true (below.trans_le le), decide_eq_true below, Bool.true_and, Bool.true_and]

theorem parityBit_eq (i : Nat) : parityBit i = BitVec.ofNat 1 (popcount (BitVec.ofNat 64 i)) := by
  apply BitVec.eq_of_toNat_eq
  simp [parityBit, parityOf]

theorem xor_ofNat_one (a b : Nat) : BitVec.ofNat 1 a ^^^ BitVec.ofNat 1 b = BitVec.ofNat 1 (a + b) := by
  have xor_eq_add : ∀ p q : Bit, p ^^^ q = p + q := by decide
  rw [xor_eq_add, BitVec.ofNat_add]

/-- With the parities in the table, the first lanes' look-ups give the parity of the operand's bits in them. -/
theorem lookUps_range_eq {t : Table} {w : Nat} (le : w ≤ 64) (parities : ∀ i, i < 2 ^ w → t.read i = parityBit i)
    (x : Word) (lanes : Nat) : lookUps t x w (List.range lanes) = BitVec.ofNat 1 (lowCount (w * lanes) x) := by
  induction lanes with
  | zero => rfl
  | succ k ih =>
    have lane : t.read (laneOf x w k) = BitVec.ofNat 1 (lowCount w (x >>> (w * k))) := by
      rw [parities _ (laneOf_lt x w k), parityBit_eq, popcount_laneOf le]
    rw [List.range_succ, lookUps_append, lookUps_singleton, ih, lane, xor_ofNat_one, Nat.mul_succ, lowCount_add]

/-! ### How PARITY_CACHED completes (43_cached_parity.md R99) -/

/-- The checks of PARITY_CACHED all pass (43_cached_parity.md R99). -/
structure CachedChecks (s : State) (n w : Nat) : Prop where
  widthPos : 1 ≤ w
  widthLe : w ≤ Config.wMax
  lengthPos : 1 ≤ n
  lengthLe : n ≤ Config.xlen
  divides : n % w = 0
  valid : s.tableValid = true
  tableWidth : s.tableW.toNat = w
  inRange : s.opQ.toNat < 2 ^ n

section
variable {s : State} {n w : Nat}

theorem evalParityCached_of_checks (h : CachedChecks s n w) :
    evalParityCached s.opQ n w s.tableValid s.tableW s.tbl =
      .ok (.result (zextBit (cachedLoop s.tbl s.opQ w (n / w)))) := by
  obtain ⟨widthPos, widthLe, lengthPos, lengthLe, divides, valid, tableWidth, inRange⟩ := h
  have legalWidth : legalW w = true := decide_eq_true ⟨widthPos, widthLe⟩
  have legalLength : legalN n = true := decide_eq_true ⟨lengthPos, lengthLe⟩
  simp [evalParityCached, legalWidth, legalLength, divides, valid, tableWidth, inRange]

/-- PARITY_CACHED fails with a non-zero code, or its checks pass. -/
theorem evalParityCached_cases (s : State) (n w : Nat) :
    (∃ k, errCode k ≠ 0 ∧ evalParityCached s.opQ n w s.tableValid s.tableW s.tbl = .err k) ∨ CachedChecks s n w := by
  unfold evalParityCached
  split_ifs with badW badN indivisible noTable otherW aboveN
  · exact .inl ⟨_, by decide, rfl⟩
  · exact .inl ⟨_, by decide, rfl⟩
  · exact .inl ⟨_, by decide, rfl⟩
  · exact .inl ⟨_, by decide, rfl⟩
  · exact .inl ⟨_, by decide, rfl⟩
  · exact .inl ⟨_, by decide, rfl⟩
  · rw [legalW_eq_false_iff] at badW
    rw [legalN_eq_false_iff] at badN
    refine .inr ⟨by omega, by omega, by omega, by omega, not_not.mp indivisible, eq_true_of_ne_false noTable,
      (not_not.mp otherW).symm, ?_⟩
    obtain short | full : n < Config.xlen ∨ n = Config.xlen := by omega
    · exact Nat.lt_of_not_le fun above => aboveN ⟨short, above⟩
    · exact full ▸ s.opQ.isLt

/-- Where the checks pass, RESULT is the XOR of the look-ups of the lanes. -/
theorem exec_parityCached_of_checks (h : CachedChecks s n w) :
    exec (.parityCached n w) s =
      .next (s.succeedResult (zextBit (lookUps s.tbl s.opQ w (List.range (n / w))))) := by
  rw [exec_parityCached, evalParityCached_of_checks h, complete_ok_result, cachedLoop_eq_lookUps]

theorem checks_of_exec_parityCached {t : State} (completes : exec (.parityCached n w) s = .next t) (clear : t.err = 0) :
    CachedChecks s n w := by
  obtain ⟨k, nonzero, fails⟩ | checks := evalParityCached_cases s n w
  · rw [exec_parityCached, fails, complete_err] at completes
    cases completes
    exact absurd clear nonzero
  · exact checks

/-- Where the checks pass on a table of parities, PARITY_CACHED completes as PARITY does (43_cached_parity.md R102). -/
theorem exec_parityCached_eq_parity (inv : Inv s) (h : CachedChecks s n w) :
    exec (.parityCached n w) s = exec .parity s := by
  have parities : ∀ i, i < 2 ^ w → s.tbl.read i = parityBit i := h.tableWidth ▸ inv.table h.valid
  have narrow : w ≤ 64 := h.widthLe.trans (by decide)
  have lanes : w * (n / w) = n := Nat.mul_div_cancel' (Nat.dvd_of_mod_eq_zero h.divides)
  rw [exec_parityCached_of_checks h, lookUps_range_eq narrow parities, lanes,
    ← popcount_eq_lowCount_of_lt h.lengthLe h.inRange, zextBit_ofNat, exec_parity]

end

end Sys2Proof.Machine

namespace Sys2Proof.Proofs

open Sys2Proof.Machine Sys2Proof.Safety

/-- Settles O19: the six checks in their order, then the loop; the word is determined by its opcode, W and N. -/
theorem parityCachedOutcomes : Obligations.ParityCachedOutcomes := by
  refine ⟨fun s n w => ?_, decode_eq_parityCached_iff⟩
  simp only [exec_parityCached, evalParityCached, legalW_eq_false_iff, legalN_eq_false_iff, Nat.lt_one_iff]
  split_ifs
  · rfl
  · rfl
  · rfl
  · rfl
  · rfl
  · rfl
  · simp only [complete_ok_result, cachedLoop_eq_xorBits, subWord_eq_div_mod]
    rfl

/-- Settles O20: RESULT is the XOR over the lanes in ascending order, and the operand is below 2^N. -/
theorem parityCachedIsTheXorOfItsLanes : Obligations.ParityCachedIsTheXorOfItsLanes := by
  intro s n w widthPos widthLe lengthPos lengthLe divides valid tableWidth inRange
  exact ⟨exec_parityCached_of_checks
      ⟨widthPos, widthLe, lengthPos, lengthLe, divides, valid, tableWidth, inRange⟩,
    fun _ => getLsbD_eq_false_of_toNat_lt inRange⟩

/-- Settles O23: a tree's value is the XOR over its leaves, and the XOR over the lanes has one value in every order. -/
theorem everyCombineTreeGivesTheValue : Obligations.EveryCombineTreeGivesTheValue := by
  intro s n w tree widthPos widthLe lengthPos lengthLe divides valid tableWidth inRange lanes
  have checks : CachedChecks s n w :=
    ⟨widthPos, widthLe, lengthPos, lengthLe, divides, valid, tableWidth, inRange⟩
  calc exec (.parityCached n w) s
      = .next (s.succeedResult (zextBit (lookUps s.tbl s.opQ w (List.range (n / w))))) :=
        exec_parityCached_of_checks checks
    _ = .next (s.succeedResult (zextBit (tree.value s.tbl s.opQ w))) := by
        rw [value_eq_lookUps, lookUps_perm _ _ _ lanes]

/-- Settles O21: the formula is a tree over the four lanes, from lane 3 down. -/
theorem sixtyFourBySixteenIsFourLookUps : Obligations.SixtyFourBySixteenIsFourLookUps := by
  intro s valid width
  exact everyCombineTreeGivesTheValue s 64 16 (.node (.node (.node (.lane 3) (.lane 2)) (.lane 1)) (.lane 0))
    (by decide) (by decide) (by decide) (by decide) (by decide) valid (by rw [width]; rfl) s.opQ.isLt (by decide)

/-- Settles O22: a completion without error has passed the checks, and then the command completes as PARITY does. -/
theorem cachedParityAgreesWithTheOracle : Obligations.CachedParityAgreesWithTheOracle := by
  constructor
  · intro s t n w inv completes clear
    have checks := checks_of_exec_parityCached completes clear
    have asParity : exec .parity s = .next t := (exec_parityCached_eq_parity inv checks).symm.trans completes
    refine ⟨?_, asParity⟩
    cases (exec_parity s).symm.trans asParity
    exact toNat_ofNat_of_le ((Nat.mod_le _ _).trans (popcount_le s.opQ))
  · intro s n w inv widthPos widthLe lengthPos lengthLe divides valid tableWidth inRange
    have checks : CachedChecks s n w :=
      ⟨widthPos, widthLe, lengthPos, lengthLe, divides, valid, tableWidth, inRange⟩
    exact (exec_parityCached_eq_parity inv checks).trans (exec_parity s)

end Sys2Proof.Proofs
end

section
/-! PROOFS. The error codes of 60_exceptions.md: the code an outcome leaves in ERR, the order of the checks of each
command, which codes a step of each agent can leave, and the statements on them. -/

namespace Sys2Proof

/-- The opcode of a command (30_encoding.md R66). -/
def Instr.opcode : Instr → Nat
  | .countBits => 1
  | .parity => 2
  | .parityFast => 3
  | .buildTable _ => 4
  | .parityCached _ _ => 5
  | .tableRead => 6

theorem commandOf_opcode {op w n : Nat} {i : Instr} (h : commandOf op w n = .command i) : op = i.opcode := by
  unfold commandOf at h
  split at h <;> cases h <;> rfl

theorem fieldOp_of_decode {c : Word} {i : Instr} (decodes : decode c = .command i) : fieldOp c = i.opcode := by
  obtain ⟨_, command⟩ := (decode_eq_command_iff c i).mp decodes
  exact commandOf_opcode command

/-- The widths of a decoded command are the word's fields (30_encoding.md R63, R64). -/
theorem widths_of_decode {c : Word} {i : Instr} (decodes : decode c = .command i) :
    (∀ w, i = .buildTable w → w = fieldW c) ∧ (∀ n w, i = .parityCached n w → w = fieldW c ∧ n = fieldN c) := by
  obtain ⟨_, command⟩ := (decode_eq_command_iff c i).mp decodes
  exact commandOf_widths command

end Sys2Proof

namespace Sys2Proof.Machine

open Sys2Proof.Safety

/-! ### The code an outcome leaves in ERR (40_command_cycle.md R78, R81) -/

/-- The completion code of an outcome of Execute: 0 with the writes of a success. -/
def ExecResult.code : ExecResult → BitVec 4
  | .ok _ => 0
  | .err k => errCode k

@[simp] theorem ExecResult.code_ok (writes : Writes) : (ExecResult.ok writes).code = 0 := rfl

@[simp] theorem ExecResult.code_err (k : ErrKind) : (ExecResult.err k).code = errCode k := rfl

theorem complete_err_eq_code (out : ExecResult) (s : State) : (s.complete out).err = out.code := by
  obtain ⟨v, rfl, _⟩ | ⟨es, w, rfl, _⟩ | ⟨k, rfl, _⟩ := complete_cases out s <;> rfl

/-- No outcome has a reserved code (60_exceptions.md R105, R113). -/
theorem ExecResult.code_lt (out : ExecResult) : out.code.toNat < 7 := by
  cases out with
  | ok writes => exact (by decide : (0 : BitVec 4).toNat < 7)
  | err k => cases k <;> decide

/-! ### The order of the checks (60_exceptions.md R114) -/

/-- The first code that applies to a command of these fields, in the order of R114. -/
def firstCode (op w n : Nat) (x : Word) (valid : Bool) (tw : BitVec 5) : BitVec 4 :=
  if (op = 4 ∨ op = 5) ∧ ¬ (1 ≤ w ∧ w ≤ Config.wMax) then 2
  else if op = 5 ∧ ¬ (1 ≤ n ∧ n ≤ Config.xlen) then 2
  else if op = 5 ∧ n % w ≠ 0 then 2
  else if (op = 5 ∨ op = 6) ∧ valid = false then 4
  else if op = 5 ∧ w ≠ tw.toNat then 2
  else if op = 5 ∧ n < Config.xlen ∧ 2 ^ n ≤ x.toNat then 5
  else if op = 6 ∧ 2 ^ tw.toNat ≤ x.toNat then 6
  else 0

section
variable (x : Word) (n w : Nat) (valid : Bool) (tw : BitVec 5) (t : Table)

theorem code_evalBuildTable : (evalBuildTable w).code = if ¬ (1 ≤ w ∧ w ≤ Config.wMax) then 2 else 0 := by
  by_cases legal : 1 ≤ w ∧ w ≤ Config.wMax <;> simp [evalBuildTable, legalW, legal, errCode]

theorem code_evalTableRead :
    (evalTableRead x valid tw t).code =
      if valid = false then 4 else if 2 ^ tw.toNat ≤ x.toNat then 6 else 0 := by
  unfold evalTableRead
  split_ifs <;> rfl

theorem code_evalParityCached :
    (evalParityCached x n w valid tw t).code =
      if ¬ (1 ≤ w ∧ w ≤ Config.wMax) then 2
      else if ¬ (1 ≤ n ∧ n ≤ Config.xlen) then 2
      else if n % w ≠ 0 then 2
      else if valid = false then 4
      else if w ≠ tw.toNat then 2
      else if n < Config.xlen ∧ 2 ^ n ≤ x.toNat then 5
      else 0 := by
  unfold evalParityCached legalW legalN
  simp only [decide_eq_false_iff_not]
  split_ifs <;> rfl

/-- Each command's own checks are those of R114 that name its opcode, in the same order. -/
theorem code_execute {c : Word} {i : Instr} (decodes : decode c = .command i) :
    (execute c x valid tw t).code = firstCode (fieldOp c) (fieldW c) (fieldN c) x valid tw := by
  obtain ⟨buildWidth, cachedWidths⟩ := widths_of_decode decodes
  rw [execute, decodes, fieldOp_of_decode decodes]
  cases i with
  | countBits | parity | parityFast => simp [Instr.opcode, firstCode, evalCountBits, evalParity, evalParityFast]
  | buildTable w =>
    rw [← buildWidth w rfl]
    simp [Instr.opcode, firstCode, code_evalBuildTable]
  | parityCached n w =>
    obtain ⟨sameW, sameN⟩ := cachedWidths n w rfl
    rw [← sameW, ← sameN]
    simp [Instr.opcode, firstCode, code_evalParityCached]
  | tableRead => simp [Instr.opcode, firstCode, code_evalTableRead]

end

/-! ### Which codes a step can leave (60_exceptions.md R113) -/

section
variable {s t : State}

theorem unitStep_err_lt (legal : s.err.toNat < 7) (steps : unitStep s = .next t) : t.err.toNat < 7 := by
  obtain ⟨_, idle⟩ | ⟨_, out, completes⟩ := unitStep_cases s
  · cases idle.symm.trans steps
    exact legal
  · cases completes.symm.trans steps
    exact (complete_err_eq_code out s).symm ▸ out.code_lt

/-- A register write keeps ERR or, where it accepts a command, clears it (40_command_cycle.md R76). -/
theorem writeReg_err (r : Reg) (v : Word) (s : State) : (writeReg r v s).err = s.err ∨ (writeReg r v s).err = 0 := by
  obtain h | ⟨_, h⟩ | ⟨_, _, h⟩ | ⟨_, _, h⟩ | ⟨_, _, h⟩ := writeReg_cases r v s <;> simp [h]

theorem hostStep_err (k : Nat) (s : State) : (hostStep k s).err = s.err ∨ (hostStep k s).err = 0 := by
  obtain ⟨ms, h⟩ | ⟨r, v, ms, h⟩ := hostStep_state k s <;> rw [h]
  · exact .inl rfl
  · exact writeReg_err r v s

theorem hostStep_err_lt (k : Nat) (legal : s.err.toNat < 7) : (hostStep k s).err.toNat < 7 := by
  obtain kept | cleared := hostStep_err k s
  · rwa [kept]
  · rw [cleared]
    decide

/-- A state that steps holds no reserved code, and neither does the state after the step. -/
theorem step_err_lt (steps : step s = .next t) : t.err.toNat < 7 := by
  obtain ⟨_, stuck⟩ | ⟨notReserved, agent⟩ := step_cases s
  · cases stuck.symm.trans steps
  have legal : s.err.toNat < 7 := Nat.lt_of_not_le (of_decide_eq_false notReserved)
  obtain ⟨k, rest, _, h⟩ | ⟨rest, _, h⟩ | ⟨rest, _, h⟩ | ⟨_, _, h⟩ | ⟨k, _, _, h⟩ | ⟨_, _, h⟩ := agent
  · cases h.symm.trans steps
    exact hostStep_err_lt (s := { s with turns := rest }) k legal
  · exact unitStep_err_lt (s := { s with turns := rest }) legal (h.symm.trans steps)
  · cases h.symm.trans steps
    rw [State.resetUnit_err]
    decide
  · exact unitStep_err_lt legal (h.symm.trans steps)
  · cases h.symm.trans steps
    exact hostStep_err_lt k legal
  · cases h.symm.trans steps
    exact legal

end

end Sys2Proof.Machine

namespace Sys2Proof.Proofs

open Sys2Proof.Machine Sys2Proof.Safety

/-- Settles O30: the completion's code is that of Execute's outcome; a word is ILLEGAL where no row holds, and the
checks of a command are those of R114 that name its opcode. -/
theorem errorPriority : Obligations.ErrorPriority := by
  intro s busy
  refine ⟨_, unitStep_eq_complete_execute busy, ?_⟩
  rw [complete_err_eq_code]
  cases decoded : decode s.cmdQ with
  | illegal why =>
    obtain ⟨_, illegal_iff_noRow, _⟩ := decodeIsTheOpcodeTable
    have noRow := (illegal_iff_noRow s.cmdQ).mp ⟨why, decoded⟩
    rw [execute_of_illegal decoded]
    exact (if_pos noRow).symm
  | command i =>
    obtain ⟨r, hr, _, holds⟩ := exists_row_of_decode decoded
    rw [code_execute _ _ _ _ decoded]
    exact (if_neg fun noRow => noRow r hr holds).symm

/-- Settles O31: a completion writes the code of its outcome, an acceptance and a reset write 0, and every other
step keeps a code that was below 7 because the machine was not stuck. -/
theorem reservedCodesAreNeverWritten : Obligations.ReservedCodesAreNeverWritten := fun _ _ => step_err_lt

end Sys2Proof.Proofs
end

section
/-! PROOFS. Reset and hazards of 70_reset_and_hazards.md: what the reset step leaves in the registers and that it
aborts a command in flight, and that a write of OPERAND does not reach the command in flight. -/

namespace Sys2Proof.Machine

/-! ### OPERAND and its latch (R134) -/

/-- A completion neither reads nor writes OPERAND, so it commutes with a write of it. -/
theorem complete_setOperand (out : ExecResult) (v : Word) (s : State) :
    (s.setOperand v).complete out = (s.complete out).setOperand v := by
  obtain ⟨r, rfl, _⟩ | ⟨es, w, rfl, _⟩ | ⟨k, rfl, _⟩ := complete_cases out s <;> rfl

/-! ### The reset step (R127, R128) -/

/-- Where the machine is not stuck, a reset that is due uses its turn and resets the unit. -/
theorem step_of_reset {s : State} {rest : List Turn} (legal : s.err.toNat < 7) (due : s.turns = .reset :: rest) :
    step s = .next ({ s with turns := rest } : State).resetUnit := by
  have notReserved : errReserved s.err = false := decide_eq_false (Nat.not_le_of_lt legal)
  calc step s
      = takeTurn .reset { s with turns := rest } := by simp [step, systemStep, notReserved, due]
    _ = .next ({ s with turns := rest } : State).resetUnit := rfl

/-- Every field of STATUS is 0 after a reset, and the bits between the fields always are. -/
@[simp] theorem State.resetUnit_statusWord (s : State) : s.resetUnit.statusWord = 0 := by
  simp only [statusWord, resetUnit_tableW, resetUnit_tableValid, resetUnit_err, resetUnit_ovr, resetUnit_busy]
  decide

/-- TABLE_READ checks TABLE_VALID first (42_parity_table.md R96): with no valid table nothing of TBL shows. -/
theorem evalTableRead_of_noTable (x : Word) (tw : BitVec 5) (t : Table) :
    evalTableRead x false tw t = .err .tableInvalid := if_pos rfl

end Sys2Proof.Machine

namespace Sys2Proof.Proofs

open Sys2Proof.Machine Sys2Proof.Safety

/-- Settles O52: the completion's outcome is Execute's, whose arguments do not include OPERAND, and its writes commute
with a write of OPERAND. -/
theorem operandIsLatchedAtAcceptance : Obligations.OperandIsLatchedAtAcceptance := by
  refine ⟨fun s c idle => ?_, fun s v busy => ⟨_, unitStep_eq_complete_execute busy, ?_⟩⟩
  · rw [writeReg_cmd_of_idle idle, State.accept_opQ]
  · have stillBusy : (s.setOperand v).busy = true := busy
    calc unitStep (writeReg .operand v s)
        = .next ((s.setOperand v).complete (execute s.cmdQ s.opQ s.tableValid s.tableW s.tbl)) :=
          unitStep_eq_complete_execute stillBusy
      _ = .next ((s.complete (execute s.cmdQ s.opQ s.tableValid s.tableW s.tbl)).setOperand v) := by
          rw [complete_setOperand]

/-- Settles O57: the reset step clears each field, STATUS with them, and PARAM reads its constant from every state. -/
theorem resetStepClearsTheRegisters : Obligations.ResetStepClearsTheRegisters := by
  intro s rest legal due
  obtain ⟨_, _, _, _, param⟩ := paramIsConstant
  exact ⟨_, step_of_reset legal due, State.resetUnit_operand _, State.resetUnit_result _, State.resetUnit_busy _,
    State.resetUnit_ovr _, State.resetUnit_err _, State.resetUnit_tableValid _, State.resetUnit_tableW _,
    State.resetUnit_statusWord _, param _⟩

/-- Settles O59: after the reset step BUSY is 0, so the unit's step is not enabled, and TABLE_VALID is 0, so no index
reads the table. -/
theorem resetAbortsTheCommandInFlight : Obligations.ResetAbortsTheCommandInFlight := by
  intro s rest legal _ due
  refine ⟨_, step_of_reset legal due, unitStep_of_idle (State.resetUnit_busy _), State.resetUnit_result _,
    State.resetUnit_err _, State.resetUnit_tableValid _, fun x => ?_⟩
  rw [State.resetUnit_tableValid, evalTableRead_of_noTable]

end Sys2Proof.Proofs
end

section
/-! PROOFS. Command words and memory images (30_encoding.md, 20_memory.md R49): which words a command has, what the
bytes of a register value are, and the statements on both. -/

namespace Sys2Proof

/-! ### The one word of a command (30_encoding.md R67, R68, R72) -/

/-- A command whose row has a mask of all ones has one word, the match of the row. -/
theorem decode_eq_command_iff_encode_of_fixed {r : OpcodeRow} {i : Instr} (hr : r ∈ opcodeRows)
    (fixed : r.mask = BitVec.allOnes 64) (name : r.mnemonic = i.mnemonic) (decodes : decode r.pat = .command i)
    (fits : i.wellFormed = true) (word : r.pat = encode i) (c : Word) :
    decode c = .command i ↔ i.wellFormed = true ∧ c = encode i := by
  rw [decode_eq_command_iff_eq_pat hr fixed name decodes, word, and_iff_right fits]

/-- A word decodes to a command exactly where it is the word that an assembler makes of the command. -/
theorem decode_eq_command_iff_encode (c : Word) (i : Instr) :
    decode c = .command i ↔ i.wellFormed = true ∧ c = encode i := by
  cases i with
  | countBits =>
    exact decode_eq_command_iff_encode_of_fixed (r := opcodeRows[0]) (by decide) rfl rfl (by decide) rfl rfl c
  | parity =>
    exact decode_eq_command_iff_encode_of_fixed (r := opcodeRows[1]) (by decide) rfl rfl (by decide) rfl rfl c
  | parityFast =>
    exact decode_eq_command_iff_encode_of_fixed (r := opcodeRows[2]) (by decide) rfl rfl (by decide) rfl rfl c
  | buildTable w =>
    rw [decode_eq_buildTable_iff, Instr.wellFormed, fitsW, decide_eq_true_iff, encode]
  | parityCached n w =>
    rw [decode_eq_parityCached_iff, Instr.wellFormed, fitsN, fitsW, Bool.and_eq_true, decide_eq_true_iff,
      decide_eq_true_iff, encode, and_assoc]
  | tableRead =>
    exact decode_eq_command_iff_encode_of_fixed (r := opcodeRows[5]) (by decide) rfl rfl (by decide) rfl rfl c

/-! ### Memory images (20_memory.md R49) -/

theorem bytesOfWord_length (v : Word) : (bytesOfWord v).length = 8 := by
  rw [bytesOfWord, List.length_map, List.length_range]

theorem bytesOfWord_getD (v : Word) {k : Nat} (below : k < 8) :
    (bytesOfWord v).getD k 0 = v.extractLsb' (8 * k) 8 := by
  simp [bytesOfWord, below]

theorem bytesOfWord_getLsbD (v : Word) {k i : Nat} (byte : k < 8) (bit : i < 8) :
    ((bytesOfWord v).getD k 0).getLsbD i = v.getLsbD (8 * k + i) := by
  rw [bytesOfWord_getD v byte, BitVec.getLsbD_extractLsb', decide_eq_true bit, Bool.true_and]

/-- Bit `i` of the value of an image is bit `i % 8` of its byte `i / 8`. -/
theorem wordOfBytes_getLsbD (bs : List Byte) {i : Nat} (hi : i < 64) :
    (wordOfBytes bs).getLsbD i = (bs.getD (i / 8) 0).getLsbD (i % 8) := by
  induction bs generalizing i with
  | nil => simp [wordOfBytes]
  | cons b bs ih =>
    rw [wordOfBytes, BitVec.getLsbD_or, BitVec.getLsbD_shiftLeft, BitVec.getLsbD_setWidth]
    obtain low | high := Nat.lt_or_ge i 8
    · simp [hi, low, Nat.div_eq_of_lt low, Nat.mod_eq_of_lt low]
    · obtain ⟨j, rfl⟩ := Nat.exists_eq_add_of_le' high
      have rest := ih (i := j) (by omega)
      simp [hi, rest]

/-- The image of a register value gives the value back. -/
theorem wordOfBytes_bytesOfWord (v : Word) : wordOfBytes (bytesOfWord v) = v := by
  refine BitVec.eq_of_getLsbD_eq fun i hi => ?_
  have byte : i / 8 < 8 := by omega
  rw [wordOfBytes_getLsbD _ hi, bytesOfWord_getLsbD v byte (Nat.mod_lt i (by decide)), Nat.div_add_mod]

end Sys2Proof

namespace Sys2Proof.Proofs

open Sys2Proof.Machine

/-- Settles O1: the command word of a well-formed command is the word that decodes to it. -/
theorem decodeOfEncodeIsTheCommand : Obligations.DecodeOfEncodeIsTheCommand := fun i fits =>
  (decode_eq_command_iff_encode (encode i) i).mpr ⟨fits, rfl⟩

/-- Settles O2: a word that decodes to a command is the one an assembler makes of it. -/
theorem eachCommandHasOneWord : Obligations.EachCommandHasOneWord := by
  intro c i decodes
  obtain ⟨fits, word⟩ := (decode_eq_command_iff_encode c i).mp decodes
  exact ⟨word.symm, fits⟩

/-- Settles O5: the words that decode are the encodings of their commands, and the three ILLEGAL words are refused, by
evaluation. -/
theorem writtenWordsDecode : Obligations.WrittenWordsDecode := by
  simp only [Obligations.WrittenWordsDecode, decode_eq_command_iff_encode]
  decide

/-- Settles O53: bit by bit, the bytes are read off the value and the value off its bytes. -/
theorem memoryImageIsLittleEndian : Obligations.MemoryImageIsLittleEndian := fun v =>
  ⟨bytesOfWord_length v, wordOfBytes_bytesOfWord v, fun _ _ => bytesOfWord_getLsbD v⟩

end Sys2Proof.Proofs
end

section
/-! PROOFS. The step of 40_command_cycle.md: which agent moves by the turn that is due, that only a reserved code stops
it, which command it runs, what a completion keeps, and the statements on them; and the state that reset leaves. -/

namespace Sys2Proof.Machine

/-! ### Which agent moves (40_command_cycle.md R75) -/

section
variable {s : State}

theorem errReserved_of_legal (legal : s.err.toNat < 7) : errReserved s.err = false :=
  decide_eq_false (Nat.not_le_of_lt legal)

theorem step_of_reserved (reserved : 7 ≤ s.err.toNat) : step s = .fault (.reservedErrCode s.err) :=
  if_pos (decide_eq_true reserved)

/-- The turn that is due is used up and its agent moves. -/
theorem step_of_turn {turn : Turn} {rest : List Turn} (legal : s.err.toNat < 7) (due : s.turns = turn :: rest) :
    step s = takeTurn turn { s with turns := rest } := by
  simp [step, systemStep, errReserved_of_legal legal, due]

theorem step_of_host {k : Nat} {rest : List Turn} (legal : s.err.toNat < 7) (due : s.turns = .host k :: rest) :
    step s = .next (hostStep k { s with turns := rest }) :=
  step_of_turn legal due

theorem step_of_unit {rest : List Turn} (legal : s.err.toNat < 7) (due : s.turns = .unit :: rest) :
    step s = unitStep { s with turns := rest } :=
  step_of_turn legal due

/-- With no turn set a command in flight completes (40_command_cycle.md R82). -/
theorem step_of_noTurn (legal : s.err.toNat < 7) (busy : s.busy = true) (due : s.turns = []) :
    step s = unitStep s := by
  simp [step, systemStep, idleTurn, errReserved_of_legal legal, due, busy]

/-! ### What stops a step (93_implementation_defined.md) -/

/-- The unit's step always gives a next state: Execute is total (40_command_cycle.md R79). -/
theorem exists_next_unitStep (s : State) : ∃ t, unitStep s = .next t := by
  obtain ⟨_, idle⟩ | ⟨_, out, completes⟩ := unitStep_cases s
  · exact ⟨_, idle⟩
  · exact ⟨_, completes⟩

/-- Only a reserved code stops the machine. -/
theorem exists_next_step (legal : s.err.toNat < 7) : ∃ t, step s = .next t := by
  obtain ⟨reserved, _⟩ | ⟨_, agent⟩ := step_cases s
  · exact absurd ((errReserved_of_legal legal).symm.trans reserved) (by decide)
  obtain ⟨k, rest, _, h⟩ | ⟨rest, _, h⟩ | ⟨rest, _, h⟩ | ⟨_, _, h⟩ | ⟨k, _, _, h⟩ | ⟨_, _, h⟩ := agent
  · exact ⟨_, h⟩
  · exact h ▸ exists_next_unitStep _
  · exact ⟨_, h⟩
  · exact h ▸ exists_next_unitStep s
  · exact ⟨_, h⟩
  · exact ⟨_, h⟩

/-! ### The word that withFetchWord places (40_command_cycle.md R76) -/

/-- All 64 bits of a word's number, laid out as an image and read back, are the word. -/
theorem withFetchWord_toNat (c : Word) (s : State) : s.withFetchWord 64 c.toNat = acceptForNextStep c s := by
  rw [State.withFetchWord, wordOfBytes_bytesOfWord, Nat.mod_eq_of_lt c.isLt, BitVec.ofNat_toNat, BitVec.setWidth_eq]

end

end Sys2Proof.Machine

namespace Sys2Proof.Proofs

open Sys2Proof.Machine

/-- Settles O33: the step looks at the code first. -/
theorem reservedCodeIsStuck : Obligations.ReservedCodeIsStuck := fun _ => step_of_reserved

/-- Settles O24: in both cases the unit moves, and it runs the command that CMD_Q decodes to. -/
theorem stepRunsTheDecodedCommand : Obligations.StepRunsTheDecodedCommand := by
  intro s i legal busy decodes
  constructor
  · intro noTurn
    rw [step_of_noTurn legal busy noTurn, unitStep_of_command busy decodes]
  · intro rest due
    have stillBusy : ({ s with turns := rest } : State).busy = true := busy
    rw [step_of_unit legal due, unitStep_of_command stillBusy decodes]

/-- Settles O25: the word placed is the command's own, the unit's turn is first, and the word decodes to the
command. -/
theorem nextStepRunsTheFetchWord : Obligations.NextStepRunsTheFetchWord := by
  intro s i fits
  have legal : (acceptForNextStep (encode i) s).err.toNat < 7 := by
    show (0 : BitVec 4).toNat < 7
    decide
  have due : (acceptForNextStep (encode i) s).turns = .unit :: s.turns := rfl
  have decodes : decode (encode i) = .command i := decodeOfEncodeIsTheCommand i fits
  obtain ⟨_, unitFirst⟩ := stepRunsTheDecodedCommand _ i legal rfl decodes
  rw [withFetchWord_toNat]
  exact unitFirst s.turns due

/-- Settles O27: every command completes, and no completion writes these fields. -/
theorem completionKeepsOperandOvrAndLatches : Obligations.CompletionKeepsOperandOvrAndLatches := by
  intro i s
  obtain ⟨out, completes⟩ := exec_eq_complete i s
  exact ⟨_, completes, complete_operand out s, complete_ovr out s, complete_cmdQ out s, complete_opQ out s,
    complete_masters out s, complete_turns out s, complete_busy out s⟩

/-- Settles O58: the reset step uses its turn and resets the unit, of which the masters are no part. -/
theorem resetStepKeepsTheHostAgent : Obligations.ResetStepKeepsTheHostAgent := by
  intro s rest legal due
  exact ⟨_, step_of_reset legal due, State.resetUnit_masters _, State.resetUnit_turns _⟩

/-- Settles O60: the registers by evaluation; the unit is idle, so it accepts the write. -/
theorem resetStateIsIdle : Obligations.ResetStateIsIdle := by
  refine ⟨rfl, rfl, by decide, rfl, fun c => ?_⟩
  have idle : State.reset.busy = false := rfl
  rw [writeReg_cmd_of_idle idle]
  exact ⟨State.accept_busy _ c, State.accept_cmdQ _ c, State.accept_opQ _ c⟩

end Sys2Proof.Proofs
end

section
/-! PROOFS. The table that BUILD_TABLE leaves and TABLE_READ reads (42_parity_table.md R95, R96, R98): the statements
on its contents. -/

namespace Sys2Proof.Proofs

open Sys2Proof.Machine Sys2Proof.Safety

/-- Settles O14: the four entries of a table of width 2 are the parities of 0 to 3. -/
theorem buildTableTwoGivesItsExample : Obligations.BuildTableTwoGivesItsExample := by
  intro s
  have legal : legalW 2 = true := by decide
  have read : ∀ i, i < 4 → (s.succeedTable (builtEntries 2) 2).tbl.read i = parityBit i := read_built 2 s.draws
  refine ⟨_, exec_buildTable_of_legal legal s, rfl, rfl, ?_⟩
  rw [read 0 (by decide), read 1 (by decide), read 2 (by decide), read 3 (by decide)]
  decide

/-- Settles O16: the entry read is, by the invariant, the parity of its index. -/
theorem tableReadReturnsTheParityOfItsIndex : Obligations.TableReadReturnsTheParityOfItsIndex := by
  intro s inv valid below
  have entry : s.tbl.read s.opQ.toNat = BitVec.ofNat 1 (popcount s.opQ) := by
    rw [inv.table valid _ below, parityBit_eq, BitVec.ofNat_toNat, BitVec.setWidth_eq]
  calc exec .tableRead s
      = .next (s.succeedResult (zextBit (s.tbl.read s.opQ.toNat))) := exec_tableRead_of_index valid below
    _ = .next (s.succeedResult (BitVec.ofNat 64 (popcount s.opQ % 2))) := by rw [entry, zextBit_ofNat]

/-- Settles O18: both builds specify every entry that TABLE_READ can look at. -/
theorem rebuildsReadAlike : Obligations.RebuildsReadAlike := by
  intro s r w pos le
  have legal : legalW w = true := decide_eq_true ⟨pos, le⟩
  exact ⟨_, _, exec_buildTable_of_legal legal s, exec_buildTable_of_legal legal r,
    fun x => evalTableRead_built legal x true s.draws r.draws⟩

end Sys2Proof.Proofs
end

section
/-! PROOFS. The invariant of the reachable states: its part on STATUS.ERR, its part on the table, what each agent's step
does to both, and the statements on it. -/

namespace Sys2Proof.Machine

open Sys2Proof.Safety

/-! ### NEGATIVE_INPUT (60_exceptions.md R109) -/

/-- No check of R114 reports code 3. -/
theorem firstCode_ne_negativeInput (op w n : Nat) (x : Word) (valid : Bool) (tw : BitVec 5) :
    firstCode op w n x valid tw ≠ errCode .negativeInput := by
  unfold firstCode
  split_ifs <;> decide

theorem code_execute_ne_negativeInput (c x : Word) (valid : Bool) (tw : BitVec 5) (t : Table) :
    (execute c x valid tw t).code ≠ errCode .negativeInput := by
  cases decoded : decode c with
  | illegal why =>
    rw [execute_of_illegal decoded]
    decide
  | command i =>
    rw [code_execute _ _ _ _ decoded]
    exact firstCode_ne_negativeInput _ _ _ _ _ _

/-! ### The two parts of the invariant -/

/-- What the invariant says of BUSY and ERR (10_state.md R30; 60_exceptions.md R109, R113). -/
structure CodeInv (s : State) : Prop where
  clear : s.busy = true → s.err = 0
  legal : s.err.toNat < 7
  notNegative : s.err ≠ errCode .negativeInput

/-- What the invariant says of TBL, TABLE_VALID and TABLE_W (10_state.md R32, R34, R35). -/
structure TableInv (s : State) : Prop where
  widthLegal : s.tableValid = true → 1 ≤ s.tableW.toNat ∧ s.tableW.toNat ≤ Config.wMax
  widthZero : s.tableValid = false → s.tableW = 0
  parities : s.tableValid = true → ∀ i, i < 2 ^ s.tableW.toNat → s.tbl.read i = parityBit i
  form : s.tbl.wf = true

theorem inv_iff (s : State) : Inv s ↔ TableInv s ∧ CodeInv s :=
  ⟨fun ⟨widthLegal, widthZero, parities, clear, legal, notNegative, form⟩ =>
      ⟨⟨widthLegal, widthZero, parities, form⟩, ⟨clear, legal, notNegative⟩⟩,
    fun ⟨⟨widthLegal, widthZero, parities, form⟩, ⟨clear, legal, notNegative⟩⟩ =>
      ⟨widthLegal, widthZero, parities, clear, legal, notNegative, form⟩⟩

section
variable {s t : State}

theorem codeInv_of_clear (clear : s.err = 0) : CodeInv s where
  clear _ := clear
  legal := by rw [clear]; decide
  notNegative := by rw [clear]; decide

/-- What leaves BUSY and ERR, or clears ERR, keeps the part on them. -/
theorem CodeInv.of_kept_or_clear (inv : CodeInv s) (code : (t.busy = s.busy ∧ t.err = s.err) ∨ t.err = 0) :
    CodeInv t := by
  obtain ⟨busy, err⟩ | clear := code
  · obtain ⟨clear, legal, notNegative⟩ := inv
    rw [← busy, ← err] at clear
    rw [← err] at legal notNegative
    exact ⟨clear, legal, notNegative⟩
  · exact codeInv_of_clear clear

/-- A completion leaves BUSY = 0, with a code that Execute can give. -/
theorem codeInv_complete_execute (c x : Word) (valid : Bool) (tw : BitVec 5) (tbl : Table) (s : State) :
    CodeInv (s.complete (execute c x valid tw tbl)) where
  clear busy := absurd ((complete_busy _ s).symm.trans busy) (by decide)
  legal := by rw [complete_err_eq_code]; exact ExecResult.code_lt _
  notNegative := by rw [complete_err_eq_code]; exact code_execute_ne_negativeInput _ _ _ _ _

theorem TableInv.of_sameTable (inv : TableInv s) (same : sameTable t s) : TableInv t := by
  obtain ⟨widthLegal, widthZero, parities, form⟩ := inv
  obtain ⟨tbl, valid, width⟩ := same
  rw [← valid, ← width] at widthLegal widthZero
  rw [← valid, ← width, ← tbl] at parities
  rw [← tbl] at form
  exact ⟨widthLegal, widthZero, parities, form⟩

/-- With no valid table and TABLE_W = 0 nothing is said of the entries. -/
theorem tableInv_of_noTable (noTable : s.tableValid = false) (width : s.tableW = 0) (form : s.tbl.wf = true) :
    TableInv s where
  widthLegal valid := absurd (noTable.symm.trans valid) (by decide)
  widthZero _ := width
  parities valid := absurd (noTable.symm.trans valid) (by decide)
  form := form

/-- A built table meets the invariant, whatever table was there before (42_parity_table.md R95). -/
theorem tableInv_succeedTable {w : Nat} (legal : legalW w = true) (s : State) :
    TableInv (s.succeedTable (builtEntries w) w) where
  widthLegal _ := by
    rw [State.succeedTable_tableW, toNat_tableW_of_legalW legal]
    exact of_decide_eq_true legal
  widthZero noTable := absurd noTable (by simp)
  parities _ i below := by
    rw [State.succeedTable_tableW, toNat_tableW_of_legalW legal] at below
    exact read_built w s.draws i below
  form := wf_built w s.draws legal

/-- A table among Execute's outcomes is a built one, and every other outcome keeps the table. -/
theorem TableInv.complete_execute (inv : TableInv s) (c x : Word) (valid : Bool) (tw : BitVec 5) (tbl : Table) :
    TableInv (s.complete (execute c x valid tw tbl)) := by
  obtain ⟨v, outcome, _⟩ | ⟨es, w, outcome, _⟩ | ⟨k, outcome, _⟩ := complete_cases (execute c x valid tw tbl) s
  · rw [outcome]
    exact inv.of_sameTable ⟨rfl, rfl, rfl⟩
  · obtain ⟨legal, rfl⟩ := execute_eq_table outcome
    rw [outcome]
    exact tableInv_succeedTable legal s
  · rw [outcome]
    exact inv.of_sameTable ⟨rfl, rfl, rfl⟩

/-! ### What each agent's step keeps -/

/-- A register write that does not leave BUSY and ERR is an acceptance, which clears ERR (40_command_cycle.md R76). -/
theorem writeReg_code (r : Reg) (v : Word) (s : State) :
    ((writeReg r v s).busy = s.busy ∧ (writeReg r v s).err = s.err) ∨ (writeReg r v s).err = 0 := by
  obtain h | ⟨_, h⟩ | ⟨_, _, h⟩ | ⟨_, _, h⟩ | ⟨_, _, h⟩ := writeReg_cases r v s <;> simp [h]

theorem hostStep_code (k : Nat) (s : State) :
    ((hostStep k s).busy = s.busy ∧ (hostStep k s).err = s.err) ∨ (hostStep k s).err = 0 := by
  obtain ⟨ms, h⟩ | ⟨r, v, ms, h⟩ := hostStep_state k s <;> rw [h]
  · exact .inl ⟨rfl, rfl⟩
  · exact writeReg_code r v s

theorem inv_hostStep (inv : Inv s) (k : Nat) : Inv (hostStep k s) := by
  obtain ⟨table, code⟩ := (inv_iff s).mp inv
  exact (inv_iff _).mpr ⟨table.of_sameTable (hostStep_sameTable k s), code.of_kept_or_clear (hostStep_code k s)⟩

theorem inv_unitStep (inv : Inv s) (steps : unitStep s = .next t) : Inv t := by
  cases busy : s.busy with
  | false =>
    cases (unitStep_of_idle busy).symm.trans steps
    exact inv
  | true =>
    obtain ⟨table, _⟩ := (inv_iff s).mp inv
    cases (unitStep_eq_complete_execute busy).symm.trans steps
    exact (inv_iff _).mpr ⟨table.complete_execute _ _ _ _ _, codeInv_complete_execute _ _ _ _ _ s⟩

/-- A reset brings the invariant about, whatever the state was before (70_reset_and_hazards.md R127). -/
theorem inv_resetUnit (s : State) : Inv s.resetUnit :=
  (inv_iff _).mpr ⟨tableInv_of_noTable s.resetUnit_tableValid s.resetUnit_tableW (wf_resetUnit s),
    codeInv_of_clear s.resetUnit_err⟩

theorem inv_reset : Inv State.reset :=
  (inv_iff _).mpr ⟨tableInv_of_noTable rfl rfl wf_reset, codeInv_of_clear rfl⟩

/-- The invariant does not speak of the turns. -/
theorem inv_turns (inv : Inv s) (ts : List Turn) : Inv { s with turns := ts } := by
  obtain ⟨table, code⟩ := (inv_iff s).mp inv
  exact (inv_iff _).mpr ⟨table.of_sameTable ⟨rfl, rfl, rfl⟩, code.of_kept_or_clear (.inl ⟨rfl, rfl⟩)⟩

theorem inv_step (inv : Inv s) (steps : step s = .next t) : Inv t := by
  obtain ⟨_, stuck⟩ | ⟨_, agent⟩ := step_cases s
  · cases stuck.symm.trans steps
  obtain ⟨k, rest, _, h⟩ | ⟨rest, _, h⟩ | ⟨rest, _, h⟩ | ⟨_, _, h⟩ | ⟨k, _, _, h⟩ | ⟨_, _, h⟩ := agent
  · cases h.symm.trans steps
    exact inv_hostStep (inv_turns inv rest) k
  · exact inv_unitStep (inv_turns inv rest) (h.symm.trans steps)
  · cases h.symm.trans steps
    exact inv_resetUnit _
  · exact inv_unitStep inv (h.symm.trans steps)
  · cases h.symm.trans steps
    exact inv_hostStep inv k
  · cases h.symm.trans steps
    exact inv

end

end Sys2Proof.Machine

namespace Sys2Proof.Proofs

open Sys2Proof.Machine Sys2Proof.Safety

/-- Settles O32: the completion's code is that of Execute's outcome, and none of the checks of R114 reports 3. -/
theorem negativeInputIsNeverRaised : Obligations.NegativeInputIsNeverRaised := by
  intro s busy
  refine ⟨_, unitStep_eq_complete_execute busy, ?_⟩
  rw [complete_err_eq_code]
  exact code_execute_ne_negativeInput _ _ _ _ _

/-- Settles O34: the agent that moves keeps both parts of the invariant, and a reset brings them about. -/
theorem stepKeepsTheInvariant : Obligations.StepKeepsTheInvariant := fun _ _ => inv_step

/-- Settles O35: after reset no table is valid and ERR is clear. -/
theorem resetMeetsTheInvariant : Obligations.ResetMeetsTheInvariant := inv_reset

/-- Settles O36: the invariant excludes the reserved codes, which alone stop a step. -/
theorem noStepStopsUnderTheInvariant : Obligations.NoStepStopsUnderTheInvariant := fun _ inv =>
  exists_next_step inv.errLegal

end Sys2Proof.Proofs
end

section
/-! PROOFS. A command in flight (40_command_cycle.md section 4; 70_reset_and_hazards.md section 3): which next steps are
resets and completions, what the other steps keep, what can change RESULT, that the command ends, and the statements on
it. -/

namespace Sys2Proof.Machine

open Sys2Proof.Safety

/-! ### Which step is next, by the turn that is due -/

section
variable {s : State} {rest : List Turn}

theorem nextIsReset_of_reset (due : s.turns = .reset :: rest) : nextIsReset s = true := by
  rw [nextIsReset, due]

theorem nextIsReset_of_unit (due : s.turns = .unit :: rest) : nextIsReset s = false := by
  rw [nextIsReset, due]

theorem nextIsReset_of_noTurn (due : s.turns = []) : nextIsReset s = false := by
  rw [nextIsReset, due]

theorem nextIsCompletion_of_unit (due : s.turns = .unit :: rest) : nextIsCompletion s = s.busy := by
  rw [nextIsCompletion, due]

theorem nextIsCompletion_of_noTurn (due : s.turns = []) : nextIsCompletion s = s.busy := by
  rw [nextIsCompletion, due]

/-- While a command is in flight, a step that is neither reset nor its completion is a bus master's. -/
theorem exists_host_due (busy : s.busy = true) (noReset : nextIsReset s = false)
    (noCompletion : nextIsCompletion s = false) : ∃ k rest, s.turns = .host k :: rest := by
  cases due : s.turns with
  | nil => exact absurd ((nextIsCompletion_of_noTurn due).symm.trans noCompletion) (by simp [busy])
  | cons turn rest =>
    cases turn with
    | host k => exact ⟨k, rest, rfl⟩
    | unit => exact absurd ((nextIsCompletion_of_unit due).symm.trans noCompletion) (by simp [busy])
    | reset => exact absurd ((nextIsReset_of_reset due).symm.trans noReset) (by decide)

end

/-! ### What a bus master's step keeps -/

theorem writeReg_result (r : Reg) (v : Word) (s : State) : (writeReg r v s).result = s.result := by
  obtain h | ⟨_, h⟩ | ⟨_, _, h⟩ | ⟨_, _, h⟩ | ⟨_, _, h⟩ := writeReg_cases r v s <;> rw [h] <;> rfl

theorem hostStep_result (k : Nat) (s : State) : (hostStep k s).result = s.result := by
  obtain ⟨ms, h⟩ | ⟨r, v, ms, h⟩ := hostStep_state k s <;> rw [h]
  exact writeReg_result r v s

theorem writeReg_turns (r : Reg) (v : Word) (s : State) : (writeReg r v s).turns = s.turns := by
  obtain h | ⟨_, h⟩ | ⟨_, _, h⟩ | ⟨_, _, h⟩ | ⟨_, _, h⟩ := writeReg_cases r v s <;> rw [h] <;> rfl

theorem hostStep_turns (k : Nat) (s : State) : (hostStep k s).turns = s.turns := by
  obtain ⟨ms, h⟩ | ⟨r, v, ms, h⟩ := hostStep_state k s <;> rw [h]
  exact writeReg_turns r v s

/-- What a command in flight keeps until it ends: BUSY, RESULT, ERR, the table state and the latches
(40_command_cycle.md R84; 70_reset_and_hazards.md R132). -/
structure SameFlight (t s : State) : Prop where
  busy : t.busy = s.busy
  result : t.result = s.result
  err : t.err = s.err
  table : sameTable t s
  cmdQ : t.cmdQ = s.cmdQ
  opQ : t.opQ = s.opQ

section
variable {s : State}

/-- The one register write that touches these fields is an acceptance, and a busy unit accepts nothing. -/
theorem writeReg_sameFlight (busy : s.busy = true) (r : Reg) (v : Word) : SameFlight (writeReg r v s) s := by
  obtain h | ⟨_, h⟩ | ⟨_, idle, _⟩ | ⟨_, _, h⟩ | ⟨_, _, h⟩ := writeReg_cases r v s
  · rw [h]; exact ⟨rfl, rfl, rfl, ⟨rfl, rfl, rfl⟩, rfl, rfl⟩
  · rw [h]; exact ⟨rfl, rfl, rfl, ⟨rfl, rfl, rfl⟩, rfl, rfl⟩
  · exact absurd (busy.symm.trans idle) (by decide)
  · rw [h]; exact ⟨rfl, rfl, rfl, ⟨rfl, rfl, rfl⟩, rfl, rfl⟩
  · rw [h]; exact ⟨rfl, rfl, rfl, ⟨rfl, rfl, rfl⟩, rfl, rfl⟩

theorem hostStep_sameFlight (busy : s.busy = true) (k : Nat) : SameFlight (hostStep k s) s := by
  obtain ⟨ms, h⟩ | ⟨r, v, ms, h⟩ := hostStep_state k s <;> rw [h]
  · exact ⟨rfl, rfl, rfl, ⟨rfl, rfl, rfl⟩, rfl, rfl⟩
  · obtain ⟨busy', result, err, table, cmdQ, opQ⟩ := writeReg_sameFlight busy r v
    exact ⟨busy', result, err, table, cmdQ, opQ⟩

/-- The turn that a bus master uses is no part of the command. -/
theorem hostTurn_sameFlight (busy : s.busy = true) (k : Nat) (rest : List Turn) :
    SameFlight (hostStep k { s with turns := rest }) s := by
  obtain ⟨busy', result, err, table, cmdQ, opQ⟩ := hostStep_sameFlight (s := { s with turns := rest }) busy k
  exact ⟨busy', result, err, table, cmdQ, opQ⟩

end

/-! ### What can change RESULT (10_state.md R25) -/

section
variable {s t : State}

theorem complete_err_of_result_ne {out : ExecResult} (changed : (s.complete out).result ≠ s.result) :
    (s.complete out).err = 0 := by
  obtain ⟨v, rfl, _⟩ | ⟨es, w, rfl, _⟩ | ⟨k, rfl, _⟩ := complete_cases out s
  · rfl
  · rfl
  · exact absurd rfl changed

theorem unitStep_of_result_ne (steps : unitStep s = .next t) (changed : t.result ≠ s.result) :
    s.busy = true ∧ t.err = 0 ∧ t.busy = false := by
  obtain ⟨_, idle⟩ | ⟨busy, out, completes⟩ := unitStep_cases s
  · cases idle.symm.trans steps
    exact absurd rfl changed
  · cases completes.symm.trans steps
    exact ⟨busy, complete_err_of_result_ne changed, complete_busy out s⟩

/-- Of the three agents a bus master cannot change RESULT. -/
theorem step_of_result_ne (steps : step s = .next t) (changed : t.result ≠ s.result) :
    nextIsReset s = true ∨ (nextIsCompletion s = true ∧ t.err = 0 ∧ t.busy = false) := by
  obtain ⟨_, stuck⟩ | ⟨_, agent⟩ := step_cases s
  · cases stuck.symm.trans steps
  obtain ⟨k, rest, _, h⟩ | ⟨rest, due, h⟩ | ⟨rest, due, _⟩ | ⟨due, _, h⟩ | ⟨k, _, _, h⟩ | ⟨_, _, h⟩ := agent
  · cases h.symm.trans steps
    exact absurd (hostStep_result k { s with turns := rest }) changed
  · rw [nextIsCompletion_of_unit due]
    exact .inr (unitStep_of_result_ne (s := { s with turns := rest }) (h.symm.trans steps) changed)
  · exact .inl (nextIsReset_of_reset due)
  · rw [nextIsCompletion_of_noTurn due]
    exact .inr (unitStep_of_result_ne (h.symm.trans steps) changed)
  · cases h.symm.trans steps
    exact absurd (hostStep_result k s) changed
  · cases h.symm.trans steps
    exact absurd rfl changed

end

/-! ### The command ends (40_command_cycle.md R82) -/

/-- The step from `u` to `t` ends the command in flight in `s`: it is reset, or the completion with the outcome of
Execute on the word, operand and table of `s`. -/
structure EndsCommand (s u t : State) : Prop where
  steps : step u = .next t
  idle : t.busy = false
  outcome : nextIsReset u = true ∨
    (nextIsCompletion u = true ∧
      t = { u with turns := u.turns.tail }.complete (execute s.cmdQ s.opQ s.tableValid s.tableW s.tbl))

section
variable {s u t : State} {rest : List Turn}

theorem endsCommand_of_reset (legal : s.err.toNat < 7) (due : s.turns = .reset :: rest) :
    EndsCommand s s ({ s with turns := rest } : State).resetUnit where
  steps := step_of_reset legal due
  idle := State.resetUnit_busy _
  outcome := .inl (nextIsReset_of_reset due)

theorem endsCommand_of_unit (legal : s.err.toNat < 7) (busy : s.busy = true) (due : s.turns = .unit :: rest) :
    EndsCommand s s
      ({ s with turns := rest }.complete (execute s.cmdQ s.opQ s.tableValid s.tableW s.tbl)) where
  steps := (step_of_unit legal due).trans (unitStep_eq_complete_execute (s := { s with turns := rest }) busy)
  idle := complete_busy _ _
  outcome := .inr ⟨(nextIsCompletion_of_unit due).trans busy, by rw [due, List.tail_cons]⟩

theorem endsCommand_of_noTurn (legal : s.err.toNat < 7) (busy : s.busy = true) (due : s.turns = []) :
    EndsCommand s s (s.complete (execute s.cmdQ s.opQ s.tableValid s.tableW s.tbl)) where
  steps := (step_of_noTurn legal busy due).trans (unitStep_eq_complete_execute busy)
  idle := complete_busy _ _
  outcome := .inr ⟨(nextIsCompletion_of_noTurn due).trans busy, by rw [due, List.tail_nil, ← due]⟩

/-- A step that keeps the command in flight keeps the outcome it will have. -/
theorem EndsCommand.of_sameFlight {s' : State} (h : EndsCommand s' u t) (same : SameFlight s' s) :
    EndsCommand s u t := by
  obtain ⟨_, _, _, ⟨tbl, valid, width⟩, cmdQ, opQ⟩ := same
  obtain ⟨steps, idle, outcome⟩ := h
  rw [cmdQ, opQ, tbl, valid, width] at outcome
  exact ⟨steps, idle, outcome⟩

/-- Each turn of a bus master leaves one turn less; the first turn of another agent, or the end of the turns, ends the
command. -/
theorem exists_endsCommand (turns : List Turn) (due : s.turns = turns) (legal : s.err.toNat < 7)
    (busy : s.busy = true) :
    ∃ (k : Nat) (u t : State), k ≤ turns.length ∧ Host.Core.run Sys2Proof.core k s = .next u ∧ EndsCommand s u t ∧
      (Turn.reset ∉ turns → nextIsReset u = false) := by
  induction turns generalizing s with
  | nil =>
    exact ⟨0, s, _, Nat.zero_le _, rfl, endsCommand_of_noTurn legal busy due, fun _ => nextIsReset_of_noTurn due⟩
  | cons turn rest ih =>
    cases turn with
    | unit =>
      exact ⟨0, s, _, Nat.zero_le _, rfl, endsCommand_of_unit legal busy due, fun _ => nextIsReset_of_unit due⟩
    | reset =>
      exact ⟨0, s, _, Nat.zero_le _, rfl, endsCommand_of_reset legal due,
        fun noReset => absurd List.mem_cons_self noReset⟩
    | host j =>
      have same := hostTurn_sameFlight busy j rest
      obtain ⟨k, u, t, le, runs, ends, noReset⟩ :=
        ih (hostStep_turns j _) (same.err.symm ▸ legal) (same.busy.trans busy)
      exact ⟨k + 1, u, t, Nat.succ_le_succ le, (run_next (step_of_host legal due)).trans runs,
        ends.of_sameFlight same, fun absent => noReset fun mem => absent (List.mem_cons_of_mem _ mem)⟩

end

end Sys2Proof.Machine

namespace Sys2Proof.Proofs

open Sys2Proof.Machine Sys2Proof.Safety

/-- Settles O37: such a step is a bus master's, and a register write to a busy unit reaches OPERAND and OVR only. -/
theorem nothingShowsBeforeCompletion : Obligations.NothingShowsBeforeCompletion := by
  intro s legal busy noReset noCompletion
  obtain ⟨k, rest, due⟩ := exists_host_due busy noReset noCompletion
  obtain ⟨busy', result, err, table, cmdQ, opQ⟩ := hostTurn_sameFlight busy k rest
  exact ⟨_, step_of_host legal due, busy'.trans busy, result, err, table, cmdQ, opQ⟩

/-- Settles O38: no bus master writes RESULT, and a completion that changes it is not an error's. -/
theorem resultChangesOnlyAtSuccessOrReset : Obligations.ResultChangesOnlyAtSuccessOrReset := fun _ _ =>
  step_of_result_ne

/-- Settles O39, by induction on the turns. -/
theorem acceptedCommandsComplete : Obligations.AcceptedCommandsComplete := by
  intro s legal busy
  obtain ⟨k, u, t, le, runs, ⟨steps, idle, outcome⟩, noReset⟩ := exists_endsCommand s.turns rfl legal busy
  exact ⟨k, u, t, le, runs, steps, idle, outcome, noReset⟩

end Sys2Proof.Proofs
end

section
/-! PROOFS. The bus masters of the host agent (20_memory.md R44; 30_encoding.md R74; 60_exceptions.md R109, R111): what
a step of one does by its next operation, that a fault stops it, that it leaves the others alone, and the statements on
it. -/

namespace Sys2Proof.Machine

/-! ### The step of a master, by its next operation -/

section
variable {s : State} {k : Nat} {m : Master} {op : HostOp} {rest : List HostOp}

theorem hostStep_of_performed (found : s.masters[k]? = some m) (running : m.fault = none) (nextOp : m.prog = op :: rest)
    (accepted : op.rejection = none) :
    hostStep k s =
      { (op.perform s).2 with masters := s.masters.set k (m.afterOp op rest (op.perform s).1) } := by
  simp only [hostStep, found, running, nextOp, accepted]

theorem hostStep_of_rejected {f : HostFault} (found : s.masters[k]? = some m) (running : m.fault = none)
    (nextOp : m.prog = op :: rest) (rejected : op.rejection = some f) :
    hostStep k s = { s with masters := s.masters.set k (m.reject f rest) } := by
  simp only [hostStep, found, running, nextOp, rejected]

/-- A master that a fault stopped performs no access (20_memory.md R44). -/
theorem hostStep_of_stopped {f : HostFault} (found : s.masters[k]? = some m) (stopped : m.fault = some f) :
    hostStep k s = s := by
  simp only [hostStep, found, stopped]

/-- A step that leaves a fault with its master is the master's last. -/
theorem hostStep_twice_of_fault {f : HostFault} {m' : Master} (found : s.masters[k]? = some m)
    (steps : hostStep k s = { s with masters := s.masters.set k m' }) (stopped : m'.fault = some f) :
    hostStep k (hostStep k s) = hostStep k s := by
  obtain ⟨below, _⟩ := List.getElem?_eq_some_iff.mp found
  have updated : (hostStep k s).masters[k]? = some m' := by
    rw [steps]
    exact List.getElem?_set_self below
  exact hostStep_of_stopped updated stopped

end

/-- A master's step updates no other master's record. -/
theorem hostStep_masters (k : Nat) (s : State) :
    (hostStep k s).masters = s.masters ∨ ∃ m, (hostStep k s).masters = s.masters.set k m := by
  obtain h | ⟨_, _, _, _, _, _, _, _, h⟩ | ⟨_, _, _, _, _, _, _, h⟩ := hostStep_cases k s <;> rw [h]
  · exact .inl rfl
  · exact .inr ⟨_, rfl⟩
  · exact .inr ⟨_, rfl⟩

/-! ### Bus errors (20_memory.md R44) -/

theorem okayWrite_ne_busError : okayWrite ≠ busError := by decide

/-- An access that ends in a bus error leaves the unit as it is. -/
theorem busAccess_of_busError {q : Request} {s : State} (error : (busAccess q s).1 = some busError) :
    busAccess q s = (some busError, s) := by
  refine Prod.ext error ?_
  cases q with
  | read a n => exact busAccess_read_state a n s
  | write a n v =>
    simp only [busAccess] at error ⊢
    split_ifs at error ⊢
    obtain ⟨r, _, h⟩ | ⟨_, h⟩ := portWrite_cases (offsetOf a) n (v.setWidth 64) s <;> rw [h] at error ⊢
    exact absurd (Option.some.inj error) okayWrite_ne_busError

/-! ### WAIT (30_encoding.md R74) -/

theorem perform_wait (s : State) : HostOp.wait.perform s = (some (okayRead s.statusWord), s) :=
  congrArg (fun r => (some r, s)) (portRead_offset .status s)

/-- The bit that WAIT polls is BUSY (10_state.md R27). -/
theorem wait_repeats (s : State) : HostOp.wait.repeats (okayRead s.statusWord) = s.busy := s.statusWord_busy

/-! ### The write of an integer to OPERAND (60_exceptions.md R109, R111) -/

section
variable {v : Int}

theorem rejection_of_unfit (unfit : v < 0 ∨ 2 ^ 64 ≤ v) : (HostOp.wrOperand v).rejection = some (.rejected v) := by
  have refused : fitsOperand v = false := decide_eq_false (by omega)
  rw [HostOp.rejection, refused]
  rfl

theorem rejection_of_fits (fits : 0 ≤ v ∧ v < 2 ^ 64) : (HostOp.wrOperand v).rejection = none :=
  if_pos (decide_eq_true fits)

/-- A value that fits is written whole. -/
theorem toNat_ofInt_of_fits (fits : 0 ≤ v ∧ v < 2 ^ 64) : ((BitVec.ofInt 64 v).toNat : Int) = v := by
  rw [BitVec.toNat_ofInt]
  omega

end

end Sys2Proof.Machine

namespace Sys2Proof.Proofs

open Sys2Proof.Machine

/-- Settles O56: a master's step sets at most its own entry of the list. -/
theorem masterStepsAreSeparate : Obligations.MasterStepsAreSeparate := by
  intro s k j other
  obtain kept | ⟨m, updated⟩ := hostStep_masters k s
  · rw [kept]
  · rw [updated, List.getElem?_set_ne other.symm]

/-- Settles O47: a bus error leaves the unit as it is and its fault with the master, which then stands still. -/
theorem busErrorStopsItsMaster : Obligations.BusErrorStopsItsMaster := by
  intro s k m q rest found running nextOp error
  have steps : hostStep k s =
      { s with masters := s.masters.set k (Master.mk rest (busError :: m.responses) (some (.busError q.addr))) } :=
    calc hostStep k s
        = { (busAccess q s).2 with
            masters := s.masters.set k (m.afterOp (.access q) rest (busAccess q s).1) } :=
          hostStep_of_performed found running nextOp rfl
      _ = { s with masters := s.masters.set k (m.afterOp (.access q) rest (some busError)) } := by
          rw [busAccess_of_busError error]
  exact ⟨rfl, steps, hostStep_twice_of_fault found steps rfl⟩

/-- Settles O54: WAIT reads STATUS, whose bit 0 is BUSY. -/
theorem waitEndsWhenBusyReadsZero : Obligations.WaitEndsWhenBusyReadsZero := by
  intro s k m rest found running nextOp
  rw [hostStep_of_performed found running nextOp rfl, perform_wait, Master.afterOp, wait_repeats]
  rfl

/-- Settles O55: the host accepts exactly the integers OPERAND can hold, and these OPERAND holds whole. -/
theorem hostRejectsValuesOperandCannotHold : Obligations.HostRejectsValuesOperandCannotHold := by
  intro s k m v rest found running nextOp
  constructor
  · intro unfit
    have steps := hostStep_of_rejected found running nextOp (rejection_of_unfit unfit)
    exact ⟨steps, hostStep_twice_of_fault found steps rfl⟩
  · intro fits
    refine ⟨_, rfl, ?_⟩
    rw [hostStep_of_performed found running nextOp (rejection_of_fits fits), perform_wrOperand]
    exact ⟨toNat_ofInt_of_fits fits, rfl⟩

end Sys2Proof.Proofs
end
